-- ==== Sys2Proof/Word.lean ====
section
/-!
DEFINITION. The words of the CHIP-8 engine: data bytes, 16-bit words, 12-bit immediates, register and key numbers
(spec/00_scope.md R6, R8, R9; spec/30_encoding.md R49).
-/

namespace Sys2Proof

/-- A register, memory cell, timer or immediate byte: 8 bits, unsigned (00_scope.md R6, R9). -/
abbrev Byte := BitVec 8

/-- An instruction word, PC, I or a call-stack entry: 16 bits, unsigned (00_scope.md R6, R9). -/
abbrev Word := BitVec 16

/-- The immediate `nnn` of an instruction: 12 bits (30_encoding.md R49). -/
abbrev Imm12 := BitVec 12

/-- A general register number, 0x0 to 0xF; every number is legal (10_state.md R13). -/
abbrev Reg := Fin 16

/-- A key number, 0x0 to 0xF (10_state.md R23). -/
abbrev Key := Fin 16

/-- `(hi8 : lo8)`, the concatenation of two bytes with `hi` in the high bits (00_scope.md R8). -/
def Word.ofBytes (hi lo : Byte) : Word := BitVec.ofNat 16 (hi.toNat * 256 + lo.toNat)

/-- The high byte of a word. -/
def Word.highByte (w : Word) : Byte := BitVec.ofNat 8 (w.toNat / 256)

/-- The low byte of a word. -/
def Word.lowByte (w : Word) : Byte := BitVec.ofNat 8 w.toNat

end Sys2Proof
end

