-- ==== Sys2Proof/Syntax.lean ====
section
/-!
DEFINITION. The instructions of the engine: one constructor for each of the 34 rows of spec/opcode_table.json
(spec/30_encoding.md R51), with the operands its rule names (R49). A word that no row matches is UNKNOWN (R54): it is
an outcome of the decoder (Decode.lean), not an instruction.
-/

namespace Sys2Proof

/-- The canonical CHIP-8 instructions (30_encoding.md R51). -/
inductive Instr
  /-- `CLS`, 00E0: clear the display (44_display.md R105). -/
  | cls
  /-- `RET`, 00EE: return from subroutine (41_control_flow.md R74). -/
  | ret
  /-- `JP nnn`, 1nnn: jump (41_control_flow.md R75). -/
  | jp (nnn : Imm12)
  /-- `CALL nnn`, 2nnn: call subroutine (41_control_flow.md R76). -/
  | call (nnn : Imm12)
  /-- `SE Vx, kk`, 3xkk: skip if equal to the immediate (41_control_flow.md R77). -/
  | seByte (x : Reg) (kk : Byte)
  /-- `SNE Vx, kk`, 4xkk: skip if not equal to the immediate (41_control_flow.md R78). -/
  | sneByte (x : Reg) (kk : Byte)
  /-- `SE Vx, Vy`, 5xy0: skip if the registers are equal (41_control_flow.md R79). -/
  | seReg (x y : Reg)
  /-- `LD Vx, kk`, 6xkk: load immediate (42_alu.md R84). -/
  | ldByte (x : Reg) (kk : Byte)
  /-- `ADD Vx, kk`, 7xkk: add immediate, no carry (42_alu.md R85). -/
  | addByte (x : Reg) (kk : Byte)
  /-- `LD Vx, Vy`, 8xy0: register copy (42_alu.md R86). -/
  | ldReg (x y : Reg)
  /-- `OR Vx, Vy`, 8xy1 (42_alu.md R87). -/
  | orReg (x y : Reg)
  /-- `AND Vx, Vy`, 8xy2 (42_alu.md R88). -/
  | andReg (x y : Reg)
  /-- `XOR Vx, Vy`, 8xy3 (42_alu.md R89). -/
  | xorReg (x y : Reg)
  /-- `ADD Vx, Vy`, 8xy4: add with carry out (42_alu.md R90). -/
  | addReg (x y : Reg)
  /-- `SUB Vx, Vy`, 8xy5: Vx minus Vy (42_alu.md R91). -/
  | subReg (x y : Reg)
  /-- `SHR Vx`, 8xy6: shift right by one; the y nibble selects nothing (42_alu.md R92, 30_encoding.md R56, log 5). -/
  | shr (x : Reg)
  /-- `SUBN Vx, Vy`, 8xy7: Vy minus Vx (42_alu.md R93). -/
  | subnReg (x y : Reg)
  /-- `SHL Vx`, 8xyE: shift left by one; the y nibble selects nothing (42_alu.md R94, 30_encoding.md R56, log 5). -/
  | shl (x : Reg)
  /-- `SNE Vx, Vy`, 9xy0: skip if the registers differ (41_control_flow.md R80). -/
  | sneReg (x y : Reg)
  /-- `LD I, nnn`, Annn: set the index register (43_index_memory.md R97). -/
  | ldI (nnn : Imm12)
  /-- `JP V0, nnn`, Bnnn: jump with offset V0 (41_control_flow.md R81). -/
  | jpV0 (nnn : Imm12)
  /-- `RND Vx, kk`, Cxkk: random byte masked (42_alu.md R95). -/
  | rnd (x : Reg) (kk : Byte)
  /-- `DRW Vx, Vy, n`, Dxyn: draw an n-row sprite (44_display.md R106). -/
  | drw (x y : Reg) (n : Fin 16)
  /-- `SKP Vx`, Ex9E: skip if the key is pressed (45_keys_timers.md R110). -/
  | skp (x : Reg)
  /-- `SKNP Vx`, ExA1: skip if the key is not pressed (45_keys_timers.md R111). -/
  | sknp (x : Reg)
  /-- `LD Vx, DT`, Fx07: read the delay timer (45_keys_timers.md R112). -/
  | ldVxDT (x : Reg)
  /-- `LD Vx, K`, Fx0A: wait for a key and load it (45_keys_timers.md R113). -/
  | ldVxK (x : Reg)
  /-- `LD DT, Vx`, Fx15: set the delay timer (45_keys_timers.md R114). -/
  | ldDTVx (x : Reg)
  /-- `LD ST, Vx`, Fx18: set the sound timer (45_keys_timers.md R115). -/
  | ldSTVx (x : Reg)
  /-- `ADD I, Vx`, Fx1E: add a register to the index register (43_index_memory.md R98). -/
  | addIVx (x : Reg)
  /-- `LD F, Vx`, Fx29: point I at a font glyph (43_index_memory.md R99). -/
  | ldFVx (x : Reg)
  /-- `LD B, Vx`, Fx33: store binary-coded decimal (43_index_memory.md R100). -/
  | ldBVx (x : Reg)
  /-- `LD [I], Vx`, Fx55: store registers V0..Vx (43_index_memory.md R101). -/
  | ldMemVx (x : Reg)
  /-- `LD Vx, [I]`, Fx65: load registers V0..Vx (43_index_memory.md R102). -/
  | ldVxMem (x : Reg)
deriving DecidableEq, Repr

/-- The operand fields of an instruction word as numbers (30_encoding.md R49). A field that an instruction does not
have is 0. -/
structure Fields where
  x   : Nat := 0
  y   : Nat := 0
  n   : Nat := 0
  kk  : Nat := 0
  nnn : Nat := 0
deriving DecidableEq, Repr

/-- The operand fields of an instruction (the column "encoding" of 30_encoding.md R51 and R59). -/
def Instr.fields : Instr → Fields
  | .cls => {}
  | .ret => {}
  | .jp nnn => { nnn := nnn.toNat }
  | .call nnn => { nnn := nnn.toNat }
  | .seByte x kk => { x := x, kk := kk.toNat }
  | .sneByte x kk => { x := x, kk := kk.toNat }
  | .seReg x y => { x := x, y := y }
  | .ldByte x kk => { x := x, kk := kk.toNat }
  | .addByte x kk => { x := x, kk := kk.toNat }
  | .ldReg x y => { x := x, y := y }
  | .orReg x y => { x := x, y := y }
  | .andReg x y => { x := x, y := y }
  | .xorReg x y => { x := x, y := y }
  | .addReg x y => { x := x, y := y }
  | .subReg x y => { x := x, y := y }
  | .shr x => { x := x }
  | .subnReg x y => { x := x, y := y }
  | .shl x => { x := x }
  | .sneReg x y => { x := x, y := y }
  | .ldI nnn => { nnn := nnn.toNat }
  | .jpV0 nnn => { nnn := nnn.toNat }
  | .rnd x kk => { x := x, kk := kk.toNat }
  | .drw x y n => { x := x, y := y, n := n }
  | .skp x => { x := x }
  | .sknp x => { x := x }
  | .ldVxDT x => { x := x }
  | .ldVxK x => { x := x }
  | .ldDTVx x => { x := x }
  | .ldSTVx x => { x := x }
  | .addIVx x => { x := x }
  | .ldFVx x => { x := x }
  | .ldBVx x => { x := x }
  | .ldMemVx x => { x := x }
  | .ldVxMem x => { x := x }

end Sys2Proof
end

