-- ==== Sys2Proof/WellFormed.lean ====
section
/-!
DEFINITION. Well-formedness: every operand field fits the bits the encoding gives it (spec/30_encoding.md R49, R50).
The types of `Instr` already carry these widths, so every instruction is well formed (Laws/PerInstr.lean proves it);
the check is what keeps one field of an encoded word from running into the next.
-/

namespace Sys2Proof

/-- Each operand field fits its width: x, y and n 4 bits, kk 8 bits, nnn 12 bits (30_encoding.md R49). -/
def Fields.wellFormed (f : Fields) : Bool :=
  decide (f.x < 16) && decide (f.y < 16) && decide (f.n < 16) && decide (f.kk < 256) && decide (f.nnn < 4096)

/-- An instruction is well formed when its operand fields are. -/
def Instr.wellFormed (i : Instr) : Bool := i.fields.wellFormed

end Sys2Proof
end

