-- ==== Sys2Proof/Decode.lean ====
section
/-!
DEFINITION. The decoder, total on any bytes (spec/30_encoding.md R51 to R58, spec/40_engine_cycle.md R66), and after it
the opcode table and the encoder written from the same table.
-/

namespace Sys2Proof

/-- The bits of a word from bit `lo` up, `width` of them, as an unsigned number (00_scope.md R8). -/
def bits (w : Word) (lo width : Nat) : Nat := w.toNat / 2 ^ lo % 2 ^ width

/-- `op`, w[15:12], the opcode family (30_encoding.md R49). -/
def fieldOp (w : Word) : Nat := bits w 12 4

/-- `x`, w[11:8] (30_encoding.md R49). -/
def fieldX (w : Word) : Reg := Fin.ofNat 16 (bits w 8 4)

/-- `y`, w[7:4] (30_encoding.md R49). -/
def fieldY (w : Word) : Reg := Fin.ofNat 16 (bits w 4 4)

/-- `n`, w[3:0] (30_encoding.md R49). -/
def fieldN (w : Word) : Fin 16 := Fin.ofNat 16 (bits w 0 4)

/-- `kk`, w[7:0] (30_encoding.md R49). -/
def fieldKK (w : Word) : Byte := BitVec.ofNat 8 (bits w 0 8)

/-- `nnn`, w[11:0] (30_encoding.md R49). -/
def fieldNNN (w : Word) : Imm12 := BitVec.ofNat 12 (bits w 0 12)

/-- What a word decodes to (40_engine_cycle.md R66). -/
inductive Decoded
  /-- one of the 34 instructions of 30_encoding.md R51 -/
  | instr (i : Instr)
  /-- `UNKNOWN(w)`: no row of R51 matches the word (30_encoding.md R54) -/
  | unknown (w : Word)
deriving DecidableEq, Repr

/-- Family 0 matches whole words only (30_encoding.md R52). -/
def decodeFamily0 (w : Word) : Decoded :=
  match w.toNat with
  | 0x00E0 => .instr .cls
  | 0x00EE => .instr .ret
  | _ => .unknown w

/-- Family 5: the low nibble must be 0 (30_encoding.md R53). -/
def decodeFamily5 (w : Word) : Decoded :=
  match (fieldN w).val with
  | 0x0 => .instr (.seReg (fieldX w) (fieldY w))
  | _ => .unknown w

/-- Family 8: the low nibble selects the row (30_encoding.md R51, R53). -/
def decodeFamily8 (w : Word) : Decoded :=
  match (fieldN w).val with
  | 0x0 => .instr (.ldReg (fieldX w) (fieldY w))
  | 0x1 => .instr (.orReg (fieldX w) (fieldY w))
  | 0x2 => .instr (.andReg (fieldX w) (fieldY w))
  | 0x3 => .instr (.xorReg (fieldX w) (fieldY w))
  | 0x4 => .instr (.addReg (fieldX w) (fieldY w))
  | 0x5 => .instr (.subReg (fieldX w) (fieldY w))
  | 0x6 => .instr (.shr (fieldX w))
  | 0x7 => .instr (.subnReg (fieldX w) (fieldY w))
  | 0xE => .instr (.shl (fieldX w))
  | _ => .unknown w

/-- Family 9: the low nibble must be 0 (30_encoding.md R53). -/
def decodeFamily9 (w : Word) : Decoded :=
  match (fieldN w).val with
  | 0x0 => .instr (.sneReg (fieldX w) (fieldY w))
  | _ => .unknown w

/-- Family E: the low byte selects the row; Ex99 is UNKNOWN (30_encoding.md R51, R53, R55). -/
def decodeFamilyE (w : Word) : Decoded :=
  match (fieldKK w).toNat with
  | 0x9E => .instr (.skp (fieldX w))
  | 0xA1 => .instr (.sknp (fieldX w))
  | _ => .unknown w

/-- Family F: the low byte selects the row (30_encoding.md R51, R53). -/
def decodeFamilyF (w : Word) : Decoded :=
  match (fieldKK w).toNat with
  | 0x07 => .instr (.ldVxDT (fieldX w))
  | 0x0A => .instr (.ldVxK (fieldX w))
  | 0x15 => .instr (.ldDTVx (fieldX w))
  | 0x18 => .instr (.ldSTVx (fieldX w))
  | 0x1E => .instr (.addIVx (fieldX w))
  | 0x29 => .instr (.ldFVx (fieldX w))
  | 0x33 => .instr (.ldBVx (fieldX w))
  | 0x55 => .instr (.ldMemVx (fieldX w))
  | 0x65 => .instr (.ldVxMem (fieldX w))
  | _ => .unknown w

/-- Decode: by `op` first, then by a sub-opcode field for the families 0, 5, 8, 9, E and F (30_encoding.md R51).
Total, and a function of the word alone (40_engine_cycle.md R66, 30_encoding.md R58). -/
def decode (w : Word) : Decoded :=
  match fieldOp w with
  | 0x0 => decodeFamily0 w
  | 0x1 => .instr (.jp (fieldNNN w))
  | 0x2 => .instr (.call (fieldNNN w))
  | 0x3 => .instr (.seByte (fieldX w) (fieldKK w))
  | 0x4 => .instr (.sneByte (fieldX w) (fieldKK w))
  | 0x5 => decodeFamily5 w
  | 0x6 => .instr (.ldByte (fieldX w) (fieldKK w))
  | 0x7 => .instr (.addByte (fieldX w) (fieldKK w))
  | 0x8 => decodeFamily8 w
  | 0x9 => decodeFamily9 w
  | 0xA => .instr (.ldI (fieldNNN w))
  | 0xB => .instr (.jpV0 (fieldNNN w))
  | 0xC => .instr (.rnd (fieldX w) (fieldKK w))
  | 0xD => .instr (.drw (fieldX w) (fieldY w) (fieldN w))
  | 0xE => decodeFamilyE w
  | _ => decodeFamilyF w

/-- Why a list of bytes gives no instruction. -/
inductive DecodeRefusal
  /-- fewer than the two bytes of a word (30_encoding.md R57); the bytes there are -/
  | truncated (bytes : List Byte)
  /-- the first word is `UNKNOWN(w)` (30_encoding.md R54) -/
  | unknown (w : Word)
deriving DecidableEq, Repr

/-- The instruction that begins a list of bytes, high byte first (20_memory.md R37), and the bytes after it. -/
def decodeBytes : List Byte → Except DecodeRefusal (Instr × List Byte)
  | hi :: lo :: rest =>
    match decode (Word.ofBytes hi lo) with
    | .instr i => .ok (i, rest)
    | .unknown w => .error (.unknown w)
  | short => .error (.truncated short)

/-- A row of the opcode table: the word matches it when its bits under `mask` are those of `fixed`
(spec/opcode_table.json, "mask" and "match"). -/
structure Row where
  mask  : Word
  fixed : Word
deriving DecidableEq, Repr

/-- A word matches a row of the table. -/
def Row.accepts (r : Row) (w : Word) : Bool := w &&& r.mask == r.fixed

/-- The row of an instruction, from spec/opcode_table.json (30_encoding.md R51). -/
def Instr.row : Instr → Row
  | .cls => ⟨0xFFFF, 0x00E0⟩
  | .ret => ⟨0xFFFF, 0x00EE⟩
  | .jp _ => ⟨0xF000, 0x1000⟩
  | .call _ => ⟨0xF000, 0x2000⟩
  | .seByte _ _ => ⟨0xF000, 0x3000⟩
  | .sneByte _ _ => ⟨0xF000, 0x4000⟩
  | .seReg _ _ => ⟨0xF00F, 0x5000⟩
  | .ldByte _ _ => ⟨0xF000, 0x6000⟩
  | .addByte _ _ => ⟨0xF000, 0x7000⟩
  | .ldReg _ _ => ⟨0xF00F, 0x8000⟩
  | .orReg _ _ => ⟨0xF00F, 0x8001⟩
  | .andReg _ _ => ⟨0xF00F, 0x8002⟩
  | .xorReg _ _ => ⟨0xF00F, 0x8003⟩
  | .addReg _ _ => ⟨0xF00F, 0x8004⟩
  | .subReg _ _ => ⟨0xF00F, 0x8005⟩
  | .shr _ => ⟨0xF00F, 0x8006⟩
  | .subnReg _ _ => ⟨0xF00F, 0x8007⟩
  | .shl _ => ⟨0xF00F, 0x800E⟩
  | .sneReg _ _ => ⟨0xF00F, 0x9000⟩
  | .ldI _ => ⟨0xF000, 0xA000⟩
  | .jpV0 _ => ⟨0xF000, 0xB000⟩
  | .rnd _ _ => ⟨0xF000, 0xC000⟩
  | .drw _ _ _ => ⟨0xF000, 0xD000⟩
  | .skp _ => ⟨0xF0FF, 0xE09E⟩
  | .sknp _ => ⟨0xF0FF, 0xE0A1⟩
  | .ldVxDT _ => ⟨0xF0FF, 0xF007⟩
  | .ldVxK _ => ⟨0xF0FF, 0xF00A⟩
  | .ldDTVx _ => ⟨0xF0FF, 0xF015⟩
  | .ldSTVx _ => ⟨0xF0FF, 0xF018⟩
  | .addIVx _ => ⟨0xF0FF, 0xF01E⟩
  | .ldFVx _ => ⟨0xF0FF, 0xF029⟩
  | .ldBVx _ => ⟨0xF0FF, 0xF033⟩
  | .ldMemVx _ => ⟨0xF0FF, 0xF055⟩
  | .ldVxMem _ => ⟨0xF0FF, 0xF065⟩

/-- One instruction for each row of the table, in the table's order (the operands are of no account). -/
def Instr.samples : List Instr :=
  [.cls, .ret, .jp 0, .call 0, .seByte 0 0, .sneByte 0 0, .seReg 0 0, .ldByte 0 0, .addByte 0 0, .ldReg 0 0,
   .orReg 0 0, .andReg 0 0, .xorReg 0 0, .addReg 0 0, .subReg 0 0, .shr 0, .subnReg 0 0, .shl 0, .sneReg 0 0] ++
  [.ldI 0, .jpV0 0, .rnd 0 0, .drw 0 0 0, .skp 0, .sknp 0, .ldVxDT 0, .ldVxK 0, .ldDTVx 0, .ldSTVx 0, .addIVx 0,
   .ldFVx 0, .ldBVx 0, .ldMemVx 0, .ldVxMem 0]

/-- The 34 rows of spec/opcode_table.json, in order. -/
def opcodeTable : List Row := Instr.samples.map Instr.row

/-- Where the operand fields stand in a word: x at bit 8, y at bit 4, n, kk and nnn at bit 0 (30_encoding.md R49). -/
def Fields.place (f : Fields) : Nat := f.x * 256 + f.y * 16 + f.n + f.kk + f.nnn

/-- The encoder: the row's fixed bits and the operand fields in their places. A y nibble that SHR and SHL ignore is
encoded as 0 (30_encoding.md R59). -/
def encode (i : Instr) : Word := BitVec.ofNat 16 (i.row.fixed.toNat + i.fields.place)

/-- The bytes of an instruction in memory order, high byte first (20_memory.md R37). -/
def encodeBytes (i : Instr) : List Byte := [(encode i).highByte, (encode i).lowByte]

/-- The word whose bits, numbered as spec/opcode_table.json numbers them, are those of `w` below bit `nbits`. -/
def tableWord (nbits w : Nat) : Word := BitVec.ofNat 16 (w % 2 ^ nbits)

/-- The instruction the decoder reads from a word of the opcode table, laid out as the hardware stores it. -/
def decodeTableWord (nbits w : Nat) : Option Instr :=
  match decodeBytes [(tableWord nbits w).highByte, (tableWord nbits w).lowByte] with
  | .ok (i, _) => some i
  | .error _ => none

end Sys2Proof
end

