-- ==== Sys2Proof/Config.lean ====
section
/-!
DEFINITION. What is fixed for the machine and does not change as it runs: the fixed parameters of
spec/00_scope.md R6 and the open parameters FONT and RAND of R7.
-/

namespace Sys2Proof

/-- MEM_SIZE: the number of memory cells (00_scope.md R6). -/
def Config.memSize : Nat := 4096

/-- ADDR_MAX: the highest memory address (00_scope.md R6). -/
def Config.addrMax : Nat := 0xFFF

/-- PROG_BASE: where LOAD puts a program (00_scope.md R6). -/
def Config.progBase : Nat := 0x200

/-- PROG_MAX: the length of the longest program LOAD takes (00_scope.md R6). -/
def Config.progMax : Nat := 3584

/-- PC_RESET: the program counter after RESET (00_scope.md R6). -/
def Config.pcReset : Word := 0x200

/-- The glyphs of the digits 0 to 7, five bytes each (10_state.md R31).
PRESUMED (log 1): the spec gives these bytes as a default from general knowledge. -/
def Config.glyphsLow : List Byte :=
  [0xF0, 0x90, 0x90, 0x90, 0xF0] ++ [0x20, 0x60, 0x20, 0x20, 0x70] ++
  [0xF0, 0x10, 0xF0, 0x80, 0xF0] ++ [0xF0, 0x10, 0xF0, 0x10, 0xF0] ++
  [0x90, 0x90, 0xF0, 0x10, 0x10] ++ [0xF0, 0x80, 0xF0, 0x10, 0xF0] ++
  [0xF0, 0x80, 0xF0, 0x90, 0xF0] ++ [0xF0, 0x10, 0x20, 0x40, 0x40]

/-- The glyphs of the digits 8 to F, five bytes each (10_state.md R31). PRESUMED (log 1). -/
def Config.glyphsHigh : List Byte :=
  [0xF0, 0x90, 0xF0, 0x90, 0xF0] ++ [0xF0, 0x90, 0xF0, 0x10, 0xF0] ++
  [0xF0, 0x90, 0xF0, 0x90, 0x90] ++ [0xE0, 0x90, 0xE0, 0x90, 0xE0] ++
  [0xF0, 0x80, 0x80, 0x80, 0xF0] ++ [0xE0, 0x90, 0x90, 0x90, 0xE0] ++
  [0xF0, 0x80, 0xF0, 0x80, 0xF0] ++ [0xF0, 0x80, 0xF0, 0x80, 0x80]

/-- What the open parameter FONT ranges over: the 80 bytes that RESET loads at 0x000 (00_scope.md R6, R7). -/
abbrev Font := Vector Byte 80

/-- The default of FONT (10_state.md R31). PRESUMED (log 1). FONT is an argument of the host's operations and of their
runs (Machine/Operations.lean); this value is what `State.reset` and `core` take for it. -/
def Config.font : Font := ⟨⟨Config.glyphsLow ++ Config.glyphsHigh⟩, rfl⟩

/-- RAND, the random byte that the `k`-th execution of RND draws (00_scope.md R7, 42_alu.md R95).
A free value (log 2): it has no body, so nothing can be proved of any draw. -/
opaque Config.randomByte : Nat → Byte

end Sys2Proof
end

