-- ==== Sys2Proof/Machine/State.lean ====
section
/-!
DEFINITION. The state of the engine as plain data: every element of spec/10_state.md, and its value after RESET (R30,
spec/70_reset_and_hazards.md R138).
-/

namespace Sys2Proof.Machine

/-- Memory: (address, byte) pairs in one canonical form (`Memory.wf` in Ops.lean): addresses strictly rising, and no
entry equal to the reset contents of its address, which is what an unlisted address reads as (log 7). -/
abbrev Memory := List Host.Cell

/-- The display buffer, 64 columns by 32 rows of 1-bit pixels (10_state.md R21): row `py` is a bitmap whose bit `px`,
counted from the least significant, is the pixel of column `px` (log 8). -/
abbrev Display := Vector (BitVec 64) 32

/-- The fault codes (60_exceptions.md R118); the codes 6 and 7 are never raised (log 10). -/
inductive FaultCode
  /-- 0, NONE: no fault -/
  | none
  /-- 1, FETCH_RANGE: a fetch past 0xFFF (R119) -/
  | fetchRange
  /-- 2, MEM_RANGE: a data access span past 0xFFF (R120) -/
  | memRange
  /-- 3, STACK_OVERFLOW: CALL with 16 entries in use (R121) -/
  | stackOverflow
  /-- 4, STACK_UNDERFLOW: RET with an empty stack (R122) -/
  | stackUnderflow
  /-- 5, KEY_RANGE: SKP or SKNP with a key number above 0xF (R123) -/
  | keyRange
deriving DecidableEq, Repr

/-- `Fault(code, info)` as an instruction or a fetch raises it (00_scope.md R10). -/
structure Raised where
  code : FaultCode
  info : Word
deriving DecidableEq, Repr

/-- The state of the engine (10_state.md). -/
structure State where
  /-- V0 to VF; VF is also the flag output (R13, R14) -/
  v : Vector Byte 16
  /-- I, the index register (R16) -/
  i : Word
  /-- PC, the program counter (R17) -/
  pc : Word
  /-- SP, the number of call-stack entries in use, 0 to 16 (R18) -/
  sp : Fin 17
  /-- STACK[0..15] (R18) -/
  stack : Vector Word 16
  /-- DT, the delay timer (R19) -/
  dt : Byte
  /-- ST, the sound timer (R19) -/
  st : Byte
  /-- MEM (R20) -/
  mem : Memory
  /-- DISP (R21) -/
  disp : Display
  /-- DIRTY: the display changed since the host last acknowledged it (R22) -/
  dirty : Bool
  /-- KEY[0..15] (R23) -/
  key : Vector Bool 16
  /-- LAST_KEY_VALID: LAST_KEY is not NONE (R24) -/
  lastKeyValid : Bool
  /-- LAST_KEY_VAL, of no account while LAST_KEY_VALID is 0 (R24) -/
  lastKeyVal : Key
  /-- WAIT: suspended in an Fx0A (R25) -/
  wait : Bool
  /-- WAIT_X: the destination register of the waiting Fx0A (R25) -/
  waitX : Reg
  /-- FAULTED: a fault stopped the engine (R26) -/
  faulted : Bool
  /-- FAULT_CODE (R26) -/
  faultCode : FaultCode
  /-- FAULT_PC: the address of the faulting instruction (R26) -/
  faultPc : Word
  /-- FAULT_INFO: the value recorded with the code (R26) -/
  faultInfo : Word
  /-- The model's own: how many random bytes RND has drawn, so that each draw is a fresh free value (log 2) -/
  draws : Nat
deriving DecidableEq, Repr

/-- Why a step stops the machine: never. Every fault of the spec has an entry that 60_exceptions.md R117 describes, so
it is a next state with the fault record written (log 3), and this type is empty. -/
inductive Fault
deriving DecidableEq, Repr

/-- Why a step gives an instruction no meaning. -/
inductive Refusal
  /-- Raised by `exec` for an instruction that has no meaning in the model yet, by its mnemonic; safe. No arm raises it:
  every row of the opcode table has its meaning. -/
  | notModelled (mnemonic : String)
deriving DecidableEq, Repr

/-- The state after RESET (10_state.md R30, 70_reset_and_hazards.md R138). Memory lists nothing, so it reads as its
reset contents: FONT at 0x000 and 0 above. `draws` is the model's own field: DESIGN CHOICE 0 (log 2). -/
def State.reset : State where
  v := Vector.replicate 16 0
  i := 0
  pc := Config.pcReset
  sp := 0
  stack := Vector.replicate 16 0
  dt := 0
  st := 0
  mem := []
  disp := Vector.replicate 32 0
  dirty := true
  key := Vector.replicate 16 false
  lastKeyValid := false
  lastKeyVal := 0
  wait := false
  waitX := 0
  faulted := false
  faultCode := .none
  faultPc := 0
  faultInfo := 0
  draws := 0

end Sys2Proof.Machine
end

