-- ==== Sys2Proof/Machine/Ops.lean ====
section
/-!
DEFINITION. The shared operations over registers, memory, call stack and display, taking a fault, and the frame every
execute phase runs in (spec/00_scope.md R10, R11; spec/20_memory.md R36; spec/40_engine_cycle.md R65, R68).
-/

namespace Sys2Proof.Machine

/-! ### General registers -/

/-- The flag register VF is register 15 (10_state.md R14). -/
def vf : Reg := 15

/-- `V[x]` (00_scope.md R10). -/
def State.reg (s : State) (x : Reg) : Byte := s.v[x.val]'x.isLt

/-- `V[x] <- b` (00_scope.md R10). -/
def State.setReg (s : State) (x : Reg) (b : Byte) : State := { s with v := s.v.set x.val b x.isLt }

/-! ### Memory -/

/-- What an address that memory does not list reads as (log 7): its reset contents with the default FONT, which is at
0x000 to 0x04F, and 0 above (10_state.md R30, R31). With another FONT, `State.resetOf` lists the bytes that differ. -/
def Memory.initial (a : Nat) : Byte := Config.font.toList.getD a 0

/-- The byte at an address. -/
def Memory.read : Memory → Nat → Byte
  | [], a => Memory.initial a
  | (k, b) :: rest, a => if k = a then b else Memory.read rest a

/-- Put a cell into a list sorted by address. -/
def Memory.insert (a : Nat) (b : Byte) : Memory → Memory
  | [] => [(a, b)]
  | (k, c) :: rest => if a < k then (a, b) :: (k, c) :: rest else (k, c) :: Memory.insert a b rest

/-- Memory with one byte written. Writing the reset contents of an address removes its entry (log 7). -/
def Memory.write (m : Memory) (a : Nat) (b : Byte) : Memory :=
  let others := m.filter fun c => c.1 != a
  if b = Memory.initial a then others else Memory.insert a b others

/-- The canonical form: addresses strictly rising and inside memory, and no entry equal to the reset contents. -/
abbrev Memory.wf (m : Memory) : Prop :=
  m.Pairwise (fun c d => c.1 < d.1) ∧ ∀ c ∈ m, c.1 < Config.memSize ∧ c.2 ≠ Memory.initial c.1

/-- The `count` bytes from `base` up. -/
def Memory.readBytes (m : Memory) (base count : Nat) : List Byte :=
  (List.range count).map fun k => Memory.read m (base + k)

/-- Memory with `bytes` written from `base` up, the lowest address first. -/
def Memory.writeBytes (m : Memory) (base : Nat) : List Byte → Memory
  | [] => m
  | b :: rest => Memory.writeBytes (Memory.write m base b) (base + 1) rest

/-- `CheckRange(base, count)` (20_memory.md R36): a span of `count >= 1` bytes that reaches past 0xFFF raises MEM_RANGE
with the lowest address of the span that is out of range. -/
def checkRange (base count : Nat) : Except Raised Unit :=
  if base + count - 1 > Config.addrMax then
    .error { code := .memRange, info := BitVec.ofNat 16 (max base (Config.addrMax + 1)) }
  else .ok ()

/-- Read a span of `count >= 1` bytes: checked whole, then read (20_memory.md R36). -/
def readSpan (m : Memory) (base count : Nat) : Except Raised (List Byte) :=
  match checkRange base count with
  | .error r => .error r
  | .ok _ => .ok (Memory.readBytes m base count)

/-- Write a span of at least one byte: checked whole, then written (20_memory.md R36). -/
def writeSpan (m : Memory) (base : Nat) (bytes : List Byte) : Except Raised Memory :=
  match checkRange base bytes.length with
  | .error r => .error r
  | .ok _ => .ok (Memory.writeBytes m base bytes)

/-- `MemRead(addr, 1)` (20_memory.md R36): a span of one byte. -/
def memRead (m : Memory) (addr : Nat) : Except Raised Byte :=
  match readSpan m addr 1 with
  | .error r => .error r
  | .ok _ => .ok (Memory.read m addr)

/-- `MemWrite(addr, 1, v)` (20_memory.md R36): a span of one byte. -/
def memWrite (m : Memory) (addr : Nat) (b : Byte) : Except Raised Memory := writeSpan m addr [b]

/-! ### Program counter and call stack -/

/-- The advance of PC past the fetched word, before the execute phase (40_engine_cycle.md R65). -/
def State.advance (s : State) : State := { s with pc := s.pc + 2 }

/-- The skip primitive under a condition: `PC <- (PC + 2) mod 2^16` (41_control_flow.md R73). -/
def State.skipIf (t : State) (c : Bool) : State := if c then { t with pc := t.pc + 2 } else t

/-- Push PC onto the call stack; STACK_OVERFLOW when 16 entries are in use (41_control_flow.md R76). -/
def State.pushPc (t : State) : Except Raised State :=
  if h : t.sp.val < 16 then
    .ok { t with stack := t.stack.set t.sp.val t.pc h, sp := ⟨t.sp.val + 1, by omega⟩ }
  else .error { code := .stackOverflow, info := 0 }

/-- Pop the call stack into PC; STACK_UNDERFLOW when it is empty (41_control_flow.md R74). The popped entry keeps its
value. -/
def State.popPc (t : State) : Except Raised State :=
  if h : 0 < t.sp.val then
    .ok { t with sp := ⟨t.sp.val - 1, by omega⟩, pc := t.stack[t.sp.val - 1]'(by omega) }
  else .error { code := .stackUnderflow, info := 0 }

/-! ### Display -/

/-- The pixel at column `px` and row `py` (44_display.md R104). -/
def Display.pixel (d : Display) (px : Fin 64) (py : Fin 32) : Bool := (d[py.val]'py.isLt).getLsbD px.val

/-- `DISP[p]` with `p = py * 64 + px` (10_state.md R21). -/
def Display.at (d : Display) (p : Fin 2048) : Bool :=
  Display.pixel d (Fin.ofNat 64 p.val) ⟨p.val / 64, by omega⟩

/-- A row of 64 pixels with one pixel set to a value. -/
def setBit (row : BitVec 64) (px : Fin 64) (b : Bool) : BitVec 64 :=
  if b then row ||| BitVec.twoPow 64 px.val else row &&& ~~~ BitVec.twoPow 64 px.val

/-- The display with the pixel at column `px` and row `py` set to a value. -/
def Display.setPixel (d : Display) (px : Fin 64) (py : Fin 32) (b : Bool) : Display :=
  d.set py.val (setBit (d[py.val]'py.isLt) px b) py.isLt

/-- The display with every pixel 0 (44_display.md R105). -/
def Display.clear : Display := Vector.replicate 32 0

/-! ### Faults -/

/-- Fault entry, from the state before the STEP (60_exceptions.md R117, 40_engine_cycle.md R68): the record is written
and PC, the address of the faulting instruction, and every other element stay. There is no return from a fault: only
RESET clears the record (R125). -/
def State.takeFault (s : State) (r : Raised) : State :=
  { s with faulted := true, faultCode := r.code, faultPc := s.pc, faultInfo := r.info }

/-- What an execute phase leaves of the state before the STEP: its result, or the fault it raised (40_engine_cycle.md
R68). -/
def State.commit (s : State) : Except Raised State → State
  | .ok t => t
  | .error r => s.takeFault r

/-- The frame of every instruction's meaning: `s` is the state before the STEP, with PC on the instruction; its execute
phase `body` sees PC advanced past the word (40_engine_cycle.md R61, R65) and ends in a next state or a raised fault,
which `s` takes (R68). -/
def execute (s : State) (body : State → Except Raised State) : Host.Outcome State Fault Refusal :=
  .next (s.commit (body s.advance))

end Sys2Proof.Machine
end

