-- ==== Sys2Proof/Machine/Operands.lean ====
section
/-!
DEFINITION. The operand forms of the instructions: widened immediates, key numbers, decimal digits, glyph addresses,
register blocks, sprite rows and sprite coordinates.
-/

namespace Sys2Proof.Machine

/-- `zext_16` of a 12-bit immediate (30_encoding.md R50). -/
def zextImm (nnn : Imm12) : Word := nnn.setWidth 16

/-- `zext_16` of a byte (00_scope.md R9). -/
def zextByte (b : Byte) : Word := b.setWidth 16

/-- `zext_8` of a key number (00_scope.md R9). -/
def keyByte (k : Key) : Byte := BitVec.ofNat 8 k.val

/-- `KeyIndex(v)`: the key number is the full byte; above 0xF it raises KEY_RANGE (45_keys_timers.md R109). -/
def keyIndex (b : Byte) : Except Raised Key :=
  if h : b.toNat < 16 then .ok ⟨b.toNat, h⟩ else .error { code := .keyRange, info := zextByte b }

/-- `KEY[k]` (10_state.md R23). -/
def State.pressed (s : State) (k : Key) : Bool := s.key[k.val]'k.isLt

/-- The three decimal digits of a byte, hundreds first (43_index_memory.md R100). -/
def bcdDigits (b : Byte) : List Byte :=
  [BitVec.ofNat 8 (b.toNat / 100), BitVec.ofNat 8 (b.toNat / 10 % 10), BitVec.ofNat 8 (b.toNat % 10)]

/-- The address of the glyph that a byte names, 5 bytes a glyph (43_index_memory.md R99). -/
def glyphAddress (b : Byte) : Word := BitVec.ofNat 16 (b.toNat * 5)

/-- The registers V0 to Vx in order (43_index_memory.md R101). -/
def State.block (s : State) (x : Reg) : List Byte := s.v.toList.take (x.val + 1)

/-- The registers with V0 up replaced by `bytes` in order (43_index_memory.md R102). -/
def loadBlock (v : Vector Byte 16) (bytes : List Byte) : Vector Byte 16 :=
  Vector.ofFn fun k => bytes.getD k.val (v[k.val]'k.isLt)

/-- The `n` bytes of a sprite at I; with `n = 0` no byte is read and nothing is checked (44_display.md R106). -/
def State.spriteRows (s : State) (n : Fin 16) : Except Raised (List Byte) :=
  if n.val = 0 then .ok [] else readSpan s.mem s.i.toNat n.val

/-- The display column of a sprite column: the full byte X plus the column, wrapped (44_display.md R104). -/
def wrapColumn (X : Byte) (column : Nat) : Fin 64 := Fin.ofNat 64 (X.toNat + column)

/-- The display row of a sprite row: the full byte Y plus the row, wrapped (44_display.md R104). -/
def wrapRow (Y : Byte) (row : Nat) : Fin 32 := Fin.ofNat 32 (Y.toNat + row)

end Sys2Proof.Machine
end

