-- ==== Sys2Proof/Machine/Flags.lean ====
section
/-!
DEFINITION. The flag that VF takes from an instruction, and the order in which the flag and the result are written
(spec/42_alu.md R83, R96; spec/00_scope.md R11).
-/

namespace Sys2Proof.Machine

/-- A flag as the byte VF takes (42_alu.md R96). -/
def flagByte (b : Bool) : Byte := if b then 1 else 0

/-- The carry of 8xy4: the unbounded sum exceeds 255 (42_alu.md R90). -/
def carryOut (a b : Byte) : Bool := decide (a.toNat + b.toNat > 255)

/-- The flag of 8xy5 and 8xy7: the minuend is strictly above the subtrahend (42_alu.md R91, R93). -/
def strictlyAbove (a b : Byte) : Bool := decide (a.toNat > b.toNat)

/-- The bit that 8xy6 shifts out: the old bit 0 (42_alu.md R92). -/
def shiftedOutRight (a : Byte) : Bool := a &&& 1 != 0

/-- The bit that 8xyE shifts out: the old bit 7 (42_alu.md R94). -/
def shiftedOutLeft (a : Byte) : Bool := a &&& 0x80 != 0

/-- Write the result and then the flag: with x = F the flag is what VF is left with (42_alu.md R90, R96). -/
def State.setResultThenFlag (t : State) (x : Reg) (result : Byte) (flag : Bool) : State :=
  (t.setReg x result).setReg vf (flagByte flag)

/-- Write the flag and then the result: with x = F the result is what VF is left with (42_alu.md R91 to R94, R96). -/
def State.setFlagThenResult (t : State) (x : Reg) (result : Byte) (flag : Bool) : State :=
  (t.setReg vf (flagByte flag)).setReg x result

end Sys2Proof.Machine
end

