-- ==== Sys2Proof/Machine/Alu.lean ====
section
/-!
DEFINITION. Register loads, arithmetic, logic, shifts and the random byte (spec/42_alu.md). Arithmetic wraps modulo 256
(R83), which is what addition and subtraction of bytes do.
-/

namespace Sys2Proof.Machine

/-- LD Vx, kk (42_alu.md R84). -/
def execLdByte (x : Reg) (kk : Byte) (s : State) : Host.Outcome State Fault Refusal :=
  execute s fun t => .ok (t.setReg x kk)

/-- ADD Vx, kk: VF is not written as a carry (42_alu.md R85). -/
def execAddByte (x : Reg) (kk : Byte) (s : State) : Host.Outcome State Fault Refusal :=
  execute s fun t => .ok (t.setReg x (t.reg x + kk))

/-- LD Vx, Vy (42_alu.md R86). -/
def execLdReg (x y : Reg) (s : State) : Host.Outcome State Fault Refusal :=
  execute s fun t => .ok (t.setReg x (t.reg y))

/-- OR Vx, Vy (42_alu.md R87). -/
def execOrReg (x y : Reg) (s : State) : Host.Outcome State Fault Refusal :=
  execute s fun t => .ok (t.setReg x (t.reg x ||| t.reg y))

/-- AND Vx, Vy (42_alu.md R88). -/
def execAndReg (x y : Reg) (s : State) : Host.Outcome State Fault Refusal :=
  execute s fun t => .ok (t.setReg x (t.reg x &&& t.reg y))

/-- XOR Vx, Vy (42_alu.md R89). -/
def execXorReg (x y : Reg) (s : State) : Host.Outcome State Fault Refusal :=
  execute s fun t => .ok (t.setReg x (t.reg x ^^^ t.reg y))

/-- ADD Vx, Vy: the carry is written last (42_alu.md R90). -/
def execAddReg (x y : Reg) (s : State) : Host.Outcome State Fault Refusal :=
  execute s fun t => .ok (t.setResultThenFlag x (t.reg x + t.reg y) (carryOut (t.reg x) (t.reg y)))

/-- SUB Vx, Vy: the difference is written last (42_alu.md R91). -/
def execSubReg (x y : Reg) (s : State) : Host.Outcome State Fault Refusal :=
  execute s fun t => .ok (t.setFlagThenResult x (t.reg x - t.reg y) (strictlyAbove (t.reg x) (t.reg y)))

/-- SHR Vx: the shifted value is written last (42_alu.md R92). -/
def execShr (x : Reg) (s : State) : Host.Outcome State Fault Refusal :=
  execute s fun t => .ok (t.setFlagThenResult x (t.reg x >>> 1) (shiftedOutRight (t.reg x)))

/-- SUBN Vx, Vy: the difference is written last (42_alu.md R93). -/
def execSubnReg (x y : Reg) (s : State) : Host.Outcome State Fault Refusal :=
  execute s fun t => .ok (t.setFlagThenResult x (t.reg y - t.reg x) (strictlyAbove (t.reg y) (t.reg x)))

/-- SHL Vx: the shifted value is written last (42_alu.md R94). -/
def execShl (x : Reg) (s : State) : Host.Outcome State Fault Refusal :=
  execute s fun t => .ok (t.setFlagThenResult x (t.reg x <<< 1) (shiftedOutLeft (t.reg x)))

/-- RND Vx, kk: each execution takes the next draw, a free value (42_alu.md R95, log 2). -/
def execRnd (x : Reg) (kk : Byte) (s : State) : Host.Outcome State Fault Refusal :=
  execute s fun t => .ok { t.setReg x (Config.randomByte t.draws &&& kk) with draws := t.draws + 1 }

end Sys2Proof.Machine
end

