-- ==== Sys2Proof/Machine/Control.lean ====
section
/-!
DEFINITION. Control flow and the call stack: RET, JP, CALL, the register skips and JP V0 (spec/41_control_flow.md).
-/

namespace Sys2Proof.Machine

/-- RET (41_control_flow.md R74). -/
def execRet (s : State) : Host.Outcome State Fault Refusal :=
  execute s fun t => t.popPc

/-- JP nnn (41_control_flow.md R75). -/
def execJp (nnn : Imm12) (s : State) : Host.Outcome State Fault Refusal :=
  execute s fun t => .ok { t with pc := zextImm nnn }

/-- CALL nnn: PC is already advanced, so what is pushed is the return address (41_control_flow.md R76). -/
def execCall (nnn : Imm12) (s : State) : Host.Outcome State Fault Refusal :=
  execute s fun t =>
    match t.pushPc with
    | .error r => .error r
    | .ok u => .ok { u with pc := zextImm nnn }

/-- SE Vx, kk (41_control_flow.md R77). -/
def execSeByte (x : Reg) (kk : Byte) (s : State) : Host.Outcome State Fault Refusal :=
  execute s fun t => .ok (t.skipIf (t.reg x == kk))

/-- SNE Vx, kk (41_control_flow.md R78). -/
def execSneByte (x : Reg) (kk : Byte) (s : State) : Host.Outcome State Fault Refusal :=
  execute s fun t => .ok (t.skipIf (t.reg x != kk))

/-- SE Vx, Vy (41_control_flow.md R79). -/
def execSeReg (x y : Reg) (s : State) : Host.Outcome State Fault Refusal :=
  execute s fun t => .ok (t.skipIf (t.reg x == t.reg y))

/-- SNE Vx, Vy (41_control_flow.md R80). -/
def execSneReg (x y : Reg) (s : State) : Host.Outcome State Fault Refusal :=
  execute s fun t => .ok (t.skipIf (t.reg x != t.reg y))

/-- JP V0, nnn (41_control_flow.md R81). -/
def execJpV0 (nnn : Imm12) (s : State) : Host.Outcome State Fault Refusal :=
  execute s fun t => .ok { t with pc := zextImm nnn + zextByte (t.reg 0) }

end Sys2Proof.Machine
end

