-- ==== Sys2Proof/Machine/IndexMemory.lean ====
section
/-!
DEFINITION. The index register and the memory transfers (spec/43_index_memory.md). Every data access is at I plus a
constant, as an unbounded natural (R103), and its whole span is checked before any access (spec/20_memory.md R36).
-/

namespace Sys2Proof.Machine

/-- LD I, nnn (43_index_memory.md R97). -/
def execLdI (nnn : Imm12) (s : State) : Host.Outcome State Fault Refusal :=
  execute s fun t => .ok { t with i := zextImm nnn }

/-- ADD I, Vx: modulo 2^16, no flag and no range check (43_index_memory.md R98). -/
def execAddIVx (x : Reg) (s : State) : Host.Outcome State Fault Refusal :=
  execute s fun t => .ok { t with i := t.i + zextByte (t.reg x) }

/-- LD F, Vx (43_index_memory.md R99). -/
def execLdFVx (x : Reg) (s : State) : Host.Outcome State Fault Refusal :=
  execute s fun t => .ok { t with i := glyphAddress (t.reg x) }

/-- LD B, Vx (43_index_memory.md R100). -/
def execLdBVx (x : Reg) (s : State) : Host.Outcome State Fault Refusal :=
  execute s fun t =>
    match writeSpan t.mem t.i.toNat (bcdDigits (t.reg x)) with
    | .error r => .error r
    | .ok m => .ok { t with mem := m }

/-- LD [I], Vx (43_index_memory.md R101). -/
def execLdMemVx (x : Reg) (s : State) : Host.Outcome State Fault Refusal :=
  execute s fun t =>
    match writeSpan t.mem t.i.toNat (t.block x) with
    | .error r => .error r
    | .ok m => .ok { t with mem := m }

/-- LD Vx, [I] (43_index_memory.md R102). -/
def execLdVxMem (x : Reg) (s : State) : Host.Outcome State Fault Refusal :=
  execute s fun t =>
    match readSpan t.mem t.i.toNat (x.val + 1) with
    | .error r => .error r
    | .ok bytes => .ok { t with v := loadBlock t.v bytes }

end Sys2Proof.Machine
end

