-- ==== Sys2Proof/Machine/KeysTimers.lean ====
section
/-!
DEFINITION. The key and timer instructions (spec/45_keys_timers.md).
-/

namespace Sys2Proof.Machine

/-- SKP Vx (45_keys_timers.md R110). -/
def execSkp (x : Reg) (s : State) : Host.Outcome State Fault Refusal :=
  execute s fun t =>
    match keyIndex (t.reg x) with
    | .error r => .error r
    | .ok k => .ok (t.skipIf (t.pressed k))

/-- SKNP Vx (45_keys_timers.md R111). -/
def execSknp (x : Reg) (s : State) : Host.Outcome State Fault Refusal :=
  execute s fun t =>
    match keyIndex (t.reg x) with
    | .error r => .error r
    | .ok k => .ok (t.skipIf (!t.pressed k))

/-- LD Vx, DT (45_keys_timers.md R112). -/
def execLdVxDT (x : Reg) (s : State) : Host.Outcome State Fault Refusal :=
  execute s fun t => .ok (t.setReg x t.dt)

/-- LD Vx, K: with a key latched it takes the key; with none it undoes the advance of PC and waits
(45_keys_timers.md R113). -/
def execLdVxK (x : Reg) (s : State) : Host.Outcome State Fault Refusal :=
  execute s fun t =>
    if t.lastKeyValid then .ok { t.setReg x (keyByte t.lastKeyVal) with lastKeyValid := false }
    else .ok { t with pc := s.pc, wait := true, waitX := x }

/-- LD DT, Vx (45_keys_timers.md R114). -/
def execLdDTVx (x : Reg) (s : State) : Host.Outcome State Fault Refusal :=
  execute s fun t => .ok { t with dt := t.reg x }

/-- LD ST, Vx (45_keys_timers.md R115). -/
def execLdSTVx (x : Reg) (s : State) : Host.Outcome State Fault Refusal :=
  execute s fun t => .ok { t with st := t.reg x }

end Sys2Proof.Machine
end

