-- ==== Sys2Proof/Machine/Raster.lean ====
section
/-!
DEFINITION. The display instructions, the sprite raster and the collision detector (spec/44_display.md). Every read of
the display sees it as it stood when the execute phase began (spec/00_scope.md R11, log 9).
-/

namespace Sys2Proof.Machine

/-- What a sprite has drawn so far: the display, and whether a lit pixel was turned off. -/
structure Raster where
  disp : Display
  collision : Bool
deriving DecidableEq, Repr

/-- One set sprite bit over the pixel at (px, py) of the display `old` (44_display.md R106). -/
def plotPixel (old : Display) (px : Fin 64) (py : Fin 32) (r : Raster) : Raster :=
  { disp := Display.setPixel r.disp px py (!Display.pixel old px py)
    collision := r.collision || Display.pixel old px py }

/-- One sprite byte, the most significant bit at column 0 (44_display.md R106). -/
def plotRow (old : Display) (X Y b : Byte) (row : Nat) (r : Raster) : Raster :=
  (List.range 8).foldl
    (fun r column => if b.getLsbD (7 - column) then plotPixel old (wrapColumn X column) (wrapRow Y row) r else r) r

/-- The sprite bytes from sprite row `row` on (44_display.md R106). -/
def plotRows (old : Display) (X Y : Byte) : Nat → List Byte → Raster → Raster
  | _, [], r => r
  | row, b :: rest, r => plotRows old X Y (row + 1) rest (plotRow old X Y b row r)

/-- CLS (44_display.md R105). -/
def execCls (s : State) : Host.Outcome State Fault Refusal :=
  execute s fun t => .ok { t with disp := Display.clear, dirty := true }

/-- DRW Vx, Vy, n: VF is written after the drawing (44_display.md R106). -/
def execDrw (x y : Reg) (n : Fin 16) (s : State) : Host.Outcome State Fault Refusal :=
  execute s fun t =>
    match t.spriteRows n with
    | .error r => .error r
    | .ok rows =>
      let drawn := plotRows t.disp (t.reg x) (t.reg y) 0 rows { disp := t.disp, collision := false }
      .ok { t.setReg vf (flagByte drawn.collision) with disp := drawn.disp, dirty := true }

end Sys2Proof.Machine
end

