-- ==== Sys2Proof/Machine/Dispatch.lean ====
section
/-!
DEFINITION. Dispatch: exactly one execute rule for each instruction (spec/40_engine_cycle.md R67).
-/

namespace Sys2Proof.Machine

/-- The effect of an instruction on the state before its STEP, PC on the instruction's word (log 11). -/
def exec (i : Instr) (s : State) : Host.Outcome State Fault Refusal :=
  match i with
  | .cls => Sys2Proof.Machine.execCls s
  | .ret => Sys2Proof.Machine.execRet s
  | .jp nnn => Sys2Proof.Machine.execJp nnn s
  | .call nnn => Sys2Proof.Machine.execCall nnn s
  | .seByte x kk => Sys2Proof.Machine.execSeByte x kk s
  | .sneByte x kk => Sys2Proof.Machine.execSneByte x kk s
  | .seReg x y => Sys2Proof.Machine.execSeReg x y s
  | .ldByte x kk => Sys2Proof.Machine.execLdByte x kk s
  | .addByte x kk => Sys2Proof.Machine.execAddByte x kk s
  | .ldReg x y => Sys2Proof.Machine.execLdReg x y s
  | .orReg x y => Sys2Proof.Machine.execOrReg x y s
  | .andReg x y => Sys2Proof.Machine.execAndReg x y s
  | .xorReg x y => Sys2Proof.Machine.execXorReg x y s
  | .addReg x y => Sys2Proof.Machine.execAddReg x y s
  | .subReg x y => Sys2Proof.Machine.execSubReg x y s
  | .shr x => Sys2Proof.Machine.execShr x s
  | .subnReg x y => Sys2Proof.Machine.execSubnReg x y s
  | .shl x => Sys2Proof.Machine.execShl x s
  | .sneReg x y => Sys2Proof.Machine.execSneReg x y s
  | .ldI nnn => Sys2Proof.Machine.execLdI nnn s
  | .jpV0 nnn => Sys2Proof.Machine.execJpV0 nnn s
  | .rnd x kk => Sys2Proof.Machine.execRnd x kk s
  | .drw x y n => Sys2Proof.Machine.execDrw x y n s
  | .skp x => Sys2Proof.Machine.execSkp x s
  | .sknp x => Sys2Proof.Machine.execSknp x s
  | .ldVxDT x => Sys2Proof.Machine.execLdVxDT x s
  | .ldVxK x => Sys2Proof.Machine.execLdVxK x s
  | .ldDTVx x => Sys2Proof.Machine.execLdDTVx x s
  | .ldSTVx x => Sys2Proof.Machine.execLdSTVx x s
  | .addIVx x => Sys2Proof.Machine.execAddIVx x s
  | .ldFVx x => Sys2Proof.Machine.execLdFVx x s
  | .ldBVx x => Sys2Proof.Machine.execLdBVx x s
  | .ldMemVx x => Sys2Proof.Machine.execLdMemVx x s
  | .ldVxMem x => Sys2Proof.Machine.execLdVxMem x s

end Sys2Proof.Machine
end

