-- ==== Sys2Proof/Machine/Engine.lean ====
section
/-!
DEFINITION. The STEP operation: the fault gate, the wait gate, fetch, decode and dispatch (spec/40_engine_cycle.md).
-/

namespace Sys2Proof.Machine

/-- `Fetch(a)` with a = PC: the big-endian word there, or FETCH_RANGE with the first address out of range when a byte
of it lies past 0xFFF (40_engine_cycle.md R64). -/
def fetch (s : State) : Except Raised Word :=
  if s.pc.toNat + 1 > Config.addrMax then
    .error { code := .fetchRange, info := if s.pc.toNat > Config.addrMax then s.pc else s.pc + 1 }
  else .ok (Word.ofBytes (Memory.read s.mem s.pc.toNat) (Memory.read s.mem (s.pc.toNat + 1)))

/-- `WaitPoll()`: with a key latched the waiting Fx0A completes; with none nothing changes (40_engine_cycle.md R63). -/
def waitPoll (s : State) : State :=
  if s.lastKeyValid then
    { s.setReg s.waitX (keyByte s.lastKeyVal) with lastKeyValid := false, wait := false, pc := s.pc + 2 }
  else s

/-- `UNKNOWN(w)`: a no-op but for the advance of PC (40_engine_cycle.md R69, 30_encoding.md R54). -/
def execUnknown (_ : Word) (s : State) : Host.Outcome State Fault Refusal :=
  execute s fun t => .ok t

/-- Run what a fetched word decodes to (40_engine_cycle.md R66, R67). -/
def runWord (w : Word) (s : State) : Host.Outcome State Fault Refusal :=
  match decode w with
  | .instr i => exec i s
  | .unknown u => execUnknown u s

/-- `STEP()`: the phases in the order of 40_engine_cycle.md R61. -/
def engineStep (s : State) : Host.Outcome State Fault Refusal :=
  if s.faulted then .next s
  else if s.wait then .next (waitPoll s)
  else
    match fetch s with
    | .error r => .next (s.takeFault r)
    | .ok w => runWord w s

/-- The state in which the next STEP fetches `w`: the gates open, PC at an address that can be fetched (as it is, where
it can), and the word in memory there, high byte first (20_memory.md R37; log 6). -/
def placeWord (s : State) (w : Word) : State :=
  let pc := if s.pc.toNat + 1 > Config.addrMax then Config.pcReset else s.pc
  let s' := if s.faulted then { s with faulted := false, faultCode := .none, faultPc := 0, faultInfo := 0 } else s
  { s' with
    pc := pc
    wait := false
    mem := Memory.writeBytes s.mem pc.toNat [w.highByte, w.lowByte] }

end Sys2Proof.Machine
end

