-- ==== Sys2Proof/Machine/Step.lean ====
section
/-!
DEFINITION. One step of the machine is one STEP of the engine (spec/40_engine_cycle.md R61).
-/

namespace Sys2Proof.Machine

/-- The STEP operation. -/
def step (s : State) : Host.Outcome State Fault Refusal := engineStep s

/-- `s` with a word of the opcode table stored where `step` fetches its next instruction, so that the very next step
runs it. It stands for the host's LOAD (log 6). -/
def State.withFetchWord (s : State) (nbits w : Nat) : State := placeWord s (tableWord nbits w)

end Sys2Proof.Machine
end

