-- ==== Sys2Proof/Machine/Operations.lean ====
section
/-!
DEFINITION. The engine's whole host interface: the eight operations of spec/60_exceptions.md R129, each one atomic
transition (spec/20_memory.md R41), runs of them, and the status word the host reads (spec/10_state.md R27). FONT, which
RESET loads, is an argument of an engine's operations and fixed in a run of them (spec/00_scope.md R7, log 1).
-/

namespace Sys2Proof.Machine

/-- The state after RESET of an engine with a given FONT (70_reset_and_hazards.md R138). With the default FONT it is
`State.reset`. -/
def State.resetOf (font : Font) : State :=
  { State.reset with mem := Memory.writeBytes State.reset.mem 0 font.toList }

/-- RESET of an engine with a given FONT (70_reset_and_hazards.md R138): every element at its reset value. The draws of
RND go on from where they were, so that no draw is taken twice (42_alu.md R95, log 2). -/
def State.resetWith (s : State) (font : Font) : State := { State.resetOf font with draws := s.draws }

/-- LOAD of a program that fits: its bytes go to 0x200 up, the display is cleared and DIRTY set, nothing else changes
(70_reset_and_hazards.md R139). A longer one is refused and changes nothing (R140). -/
def State.load (s : State) (bytes : List Byte) : State :=
  if bytes.length > Config.progMax then s
  else { s with mem := Memory.writeBytes s.mem Config.progBase bytes, disp := Display.clear, dirty := true }

/-- One tick of a timer: down by one, stopping at zero (60_exceptions.md R130). -/
def countDown (b : Byte) : Byte := if b.toNat > 0 then b - 1 else b

/-- TICK (60_exceptions.md R130). -/
def State.tick (s : State) : State := { s with dt := countDown s.dt, st := countDown s.st }

/-- SET_KEY(k, b) (60_exceptions.md R133). -/
def State.setKey (s : State) (k : Key) (b : Bool) : State := { s with key := s.key.set k.val b k.isLt }

/-- SET_LAST_KEY(k) (60_exceptions.md R133). -/
def State.setLastKey (s : State) (k : Key) : State := { s with lastKeyValid := true, lastKeyVal := k }

/-- CLEAR_LAST_KEY (60_exceptions.md R133). -/
def State.clearLastKey (s : State) : State := { s with lastKeyValid := false }

/-- ACK_DIRTY (60_exceptions.md R134). -/
def State.ackDirty (s : State) : State := { s with dirty := false }

/-- The operations the host issues (60_exceptions.md R129). -/
inductive Operation
  /-- RESET -/
  | reset
  /-- LOAD(bytes) -/
  | load (bytes : List Byte)
  /-- STEP -/
  | step
  /-- TICK -/
  | tick
  /-- SET_KEY(k, b) -/
  | setKey (k : Key) (pressed : Bool)
  /-- SET_LAST_KEY(k) -/
  | setLastKey (k : Key)
  /-- CLEAR_LAST_KEY -/
  | clearLastKey
  /-- ACK_DIRTY -/
  | ackDirty
deriving DecidableEq, Repr

/-- What an operation returns to the host (70_reset_and_hazards.md R139, R140). -/
inductive Reply
  /-- OK, or nothing to return -/
  | ok
  /-- LOAD_TOO_LARGE -/
  | loadTooLarge
deriving DecidableEq, Repr

/-- The reply of an operation. -/
def Operation.reply : Operation → Reply
  | .load bytes => if bytes.length > Config.progMax then .loadTooLarge else .ok
  | .reset => .ok
  | .step => .ok
  | .tick => .ok
  | .setKey _ _ => .ok
  | .setLastKey _ => .ok
  | .clearLastKey => .ok
  | .ackDirty => .ok

/-- The transition of an operation of an engine with a given FONT. Only STEP is gated by FAULTED and WAIT
(60_exceptions.md R125). -/
def Operation.perform (font : Font) (op : Operation) (s : State) : Host.Outcome State Fault Refusal :=
  match op with
  | .reset => .next (s.resetWith font)
  | .load bytes => .next (s.load bytes)
  | .step => Sys2Proof.Machine.step s
  | .tick => .next s.tick
  | .setKey k b => .next (s.setKey k b)
  | .setLastKey k => .next (s.setLastKey k)
  | .clearLastKey => .next s.clearLastKey
  | .ackDirty => .next s.ackDirty

/-- A run of an engine with a given FONT: the host issues operations one at a time (20_memory.md R42). -/
def performAll (font : Font) : List Operation → State → Host.Outcome State Fault Refusal
  | [], s => .next s
  | op :: rest, s =>
    match op.perform font s with
    | .next t => performAll font rest t
    | .fault r => .fault r
    | .refused r => .refused r

/-- The machine behind the host's interface for an engine with a given FONT; `Sys2Proof.core` is the one with the
default (Laws/Operations.lean proves it). -/
def engineWith (font : Font) : Host.Core where
  State := State
  Fault := Fault
  Refusal := Refusal
  step := Sys2Proof.Machine.step
  reset := State.resetOf font

/-- The number of a fault code (60_exceptions.md R118). -/
def FaultCode.number : FaultCode → Nat
  | .none => 0
  | .fetchRange => 1
  | .memRange => 2
  | .stackOverflow => 3
  | .stackUnderflow => 4
  | .keyRange => 5

/-- STATUS, the word that packs the engine's flags for the host (10_state.md R27): DIRTY in bit 0, WAIT in bit 1,
FAULTED in bit 2, FAULT_CODE in bits 5:3 (0 when FAULTED = 0), WAIT_X in bits 11:8, LAST_KEY_VALID in bit 12, the
others 0. -/
def State.status (s : State) : Word :=
  BitVec.ofNat 16
    (s.dirty.toNat + s.wait.toNat * 2 + s.faulted.toNat * 4 +
      (if s.faulted then s.faultCode.number else 0) * 8 + s.waitX.val * 256 + s.lastKeyValid.toNat * 4096)

end Sys2Proof.Machine
end

