-- ==== Sys2Proof/Safety.lean ====
section
/-!
DEFINITION. The terms claims use: what two states agree on, what an instruction writes, the invariant of the engine,
and when a state is quiescent (spec/70_reset_and_hazards.md R152).
-/

namespace Sys2Proof.Machine

/-- The elements of the state (10_state.md), for saying which an instruction may change. -/
inductive Part
  /-- V0 to VF -/
  | regs
  /-- I -/
  | index
  /-- PC -/
  | pc
  /-- SP and STACK -/
  | callStack
  /-- DT -/
  | delayTimer
  /-- ST -/
  | soundTimer
  /-- MEM -/
  | memory
  /-- DISP -/
  | display
  /-- DIRTY -/
  | dirty
  /-- KEY -/
  | keys
  /-- LAST_KEY_VALID and LAST_KEY_VAL -/
  | lastKey
  /-- WAIT and WAIT_X -/
  | wait
  /-- FAULTED, FAULT_CODE, FAULT_PC and FAULT_INFO -/
  | faultRecord
  /-- the model's count of random draws -/
  | draws
deriving DecidableEq, Repr

/-- Two states agree on an element. Memory is compared by the byte every address reads as. -/
def Part.same (p : Part) (s t : State) : Prop :=
  match p with
  | .regs => ∀ r : Reg, t.reg r = s.reg r
  | .index => t.i = s.i
  | .pc => t.pc = s.pc
  | .callStack => t.sp = s.sp ∧ t.stack = s.stack
  | .delayTimer => t.dt = s.dt
  | .soundTimer => t.st = s.st
  | .memory => ∀ a : Nat, Memory.read t.mem a = Memory.read s.mem a
  | .display => ∀ (px : Fin 64) (py : Fin 32), Display.pixel t.disp px py = Display.pixel s.disp px py
  | .dirty => t.dirty = s.dirty
  | .keys => t.key = s.key
  | .lastKey => t.lastKeyValid = s.lastKeyValid ∧ t.lastKeyVal = s.lastKeyVal
  | .wait => t.wait = s.wait ∧ t.waitX = s.waitX
  | .faultRecord =>
    t.faulted = s.faulted ∧ t.faultCode = s.faultCode ∧ t.faultPc = s.faultPc ∧ t.faultInfo = s.faultInfo
  | .draws => t.draws = s.draws

/-- `t` agrees with `s` on every element that is not in the list. -/
def SameBut (parts : List Part) (s t : State) : Prop := ∀ p : Part, p ∉ parts → p.same s t

/-- From `s` to `t` PC moves past one word, `x` takes the value `b`, and nothing else changes. -/
def WritesReg (x : Reg) (b : Byte) (s t : State) : Prop :=
  t.pc = s.pc + 2 ∧ (∀ r : Reg, t.reg r = if r = x then b else s.reg r) ∧ SameBut [.regs, .pc] s t

/-- From `s` to `t` PC moves past one word, `x` takes `b` and VF takes the flag `f`, the flag winning when x = F, and
nothing else changes. -/
def WritesRegThenFlag (x : Reg) (b : Byte) (f : Bool) (s t : State) : Prop :=
  t.pc = s.pc + 2 ∧
    (∀ r : Reg, t.reg r = if r = 15 then (if f then 1 else 0) else if r = x then b else s.reg r) ∧
    SameBut [.regs, .pc] s t

/-- The same, the result winning when x = F. -/
def WritesFlagThenReg (x : Reg) (b : Byte) (f : Bool) (s t : State) : Prop :=
  t.pc = s.pc + 2 ∧
    (∀ r : Reg, t.reg r = if r = x then b else if r = 15 then (if f then 1 else 0) else s.reg r) ∧
    SameBut [.regs, .pc] s t

/-- From `s` to `t` one word is skipped when the condition holds, and nothing else changes. -/
def Skips (c : Prop) (s t : State) : Prop :=
  (c → t.pc = s.pc + 4) ∧ (¬ c → t.pc = s.pc + 2) ∧ SameBut [.pc] s t

/-- From `s` to `t` a fault is taken: the record holds the code, the information and the address of the instruction,
and nothing else changes, PC included (60_exceptions.md R117). -/
def TakesFault (code : FaultCode) (info : Word) (s t : State) : Prop :=
  t.faulted = true ∧ t.faultCode = code ∧ t.faultPc = s.pc ∧ t.faultInfo = info ∧ SameBut [.faultRecord] s t

/-- A sprite drawn with its top left corner at (X, Y) has a set bit over the pixel (px, py): some row and column of it
wraps there (44_display.md R104, R107). -/
def SpriteCovers (X Y : Byte) (rows : List Byte) (px : Fin 64) (py : Fin 32) : Prop :=
  ∃ row column : Nat, row < rows.length ∧ column < 8 ∧ (rows.getD row 0).getLsbD (7 - column) = true ∧
    px.val = (X.toNat + column) % 64 ∧ py.val = (Y.toNat + row) % 32

/-- The fault record is empty unless the engine is faulted, and then it names a fault at PC (10_state.md R17, R26,
60_exceptions.md R118). -/
def FaultRecordConsistent (s : State) : Prop :=
  (s.faulted = false → s.faultCode = .none ∧ s.faultPc = 0 ∧ s.faultInfo = 0) ∧
    (s.faulted = true → s.faultCode ≠ .none ∧ s.faultPc = s.pc)

/-- The invariant of the engine: memory is in its canonical form, the fault record is consistent, and the engine is
never both waiting and faulted. -/
def Inv (s : State) : Prop :=
  Memory.wf s.mem ∧ FaultRecordConsistent s ∧ (s.faulted = true → s.wait = false)

/-- While the engine waits, PC is on the Fx0A it waits in, and WAIT_X is that instruction's x (10_state.md R17, R25). -/
def WaitsAtItsInstruction (s : State) : Prop :=
  s.wait = true → ∃ w, fetch s = .ok w ∧ decode w = .instr (.ldVxK s.waitX)

/-- The state with its fault record cleared. -/
def State.withoutFault (s : State) : State :=
  { s with faulted := false, faultCode := .none, faultPc := 0, faultInfo := 0 }

/-- A recorded fault is the fault of the instruction at PC: a STEP from the state without the record takes that very
fault again (60_exceptions.md R117: PC stays on the faulting instruction and nothing else changed). -/
def FaultIsOfPc (s : State) : Prop :=
  s.faulted = true → Sys2Proof.Machine.step s.withoutFault = .next s

/-- A STEP would run the instruction `i`: neither gate is closed and the word at PC decodes to it
(40_engine_cycle.md R61). -/
def RunsNext (i : Instr) (s : State) : Prop :=
  s.faulted = false ∧ s.wait = false ∧ ∃ w, fetch s = .ok w ∧ decode w = .instr i

/-- The effects of a list of instructions, one after another, whatever memory holds. -/
def execAll : List Instr → State → Host.Outcome State Fault Refusal
  | [], s => .next s
  | i :: rest, s =>
    match exec i s with
    | .next t => execAll rest t
    | .fault r => .fault r
    | .refused r => .refused r

/-- A quiescent state (70_reset_and_hazards.md R152): faulted, or waiting with no key latched, or about to run a JP to
its own address. -/
def Quiescent (s : State) : Prop :=
  s.faulted = true ∨ (s.wait = true ∧ s.lastKeyValid = false) ∨
    (∃ nnn : Imm12, RunsNext (.jp nnn) s ∧ s.pc.toNat = nnn.toNat)

/-- A safe run has taken no fault: the premise under which an instruction's effect is seen
(70_reset_and_hazards.md R142). -/
def Safe (s : State) : Prop := s.faulted = false

/-- A state the host can bring an engine with a given FONT to from power-on (60_exceptions.md R129, log 12). -/
def Reachable (font : Font) (s : State) : Prop :=
  ∃ ops : List Operation, performAll font ops (State.resetOf font) = .next s

end Sys2Proof.Machine
end

