-- ==== Sys2Proof/Certificates/Slice0/Obligations.lean ====
section
/-!
DEFINITION. The statements for the provers. Words written as sums (0x3000 + x * 256 + kk) are the encodings of
spec/30_encoding.md R51 with the fields of R49.
-/

open Sys2Proof Sys2Proof.Machine

/-! ### Encoding and decoding -/

/-- Every instruction, with every operand at every value, is read back from its own word and from its own bytes,
whatever bytes follow (30_encoding.md R48, R49, R51). -/
def Obligations.DecodeOfEncodeIsTheInstruction : Prop :=
  ∀ (i : Instr) (rest : List Byte),
    decode (encode i) = .instr i ∧ decodeBytes (encodeBytes i ++ rest) = .ok (i, rest)

/-- 30_encoding.md R56: SHR and SHL ignore the y nibble, whatever it is, and every other instruction uses every bit of
its word: its word can be written back from it. -/
def Obligations.OnlyShiftsIgnoreBits : Prop :=
  (∀ x y : Reg, decode (BitVec.ofNat 16 (0x8006 + x.val * 256 + y.val * 16)) = .instr (.shr x)) ∧
  (∀ x y : Reg, decode (BitVec.ofNat 16 (0x800E + x.val * 256 + y.val * 16)) = .instr (.shl x)) ∧
  (∀ (w : Word) (i : Instr), decode w = .instr i → (∀ x, i ≠ .shr x ∧ i ≠ .shl x) → encode i = w)

/-- 30_encoding.md R52 and R55: in family 0 only 00E0 and 00EE are instructions, and Ex99 is UNKNOWN for every x. -/
def Obligations.FamilyZeroAndEx99Unknown : Prop :=
  decode 0x00E0 = .instr .cls ∧ decode 0x00EE = .instr .ret ∧
  (∀ w : Word, w.toNat < 0x1000 → w ≠ 0x00E0 → w ≠ 0x00EE → decode w = .unknown w) ∧
  (∀ x : Reg, decode (BitVec.ofNat 16 (0xE099 + x.val * 256)) = .unknown (BitVec.ofNat 16 (0xE099 + x.val * 256)))

/-- No word matches two rows of the opcode table; a word that matches a row decodes to an instruction of that row; and a
word decodes to an instruction only of a row it matches (30_encoding.md section 2). -/
def Obligations.RowsAreDisjointAndDecodingFollowsThem : Prop :=
  (∀ w : Word, ∀ r ∈ opcodeTable, ∀ q ∈ opcodeTable, r.accepts w = true → q.accepts w = true → r = q) ∧
  (∀ w : Word, ∀ r ∈ opcodeTable, r.accepts w = true → ∃ i, decode w = .instr i ∧ i.row = r) ∧
  (∀ (w : Word) (i : Instr), decode w = .instr i → i.row ∈ opcodeTable ∧ i.row.accepts w = true)

/-- Words written out from the encodings of 30_encoding.md R51 decode to what they stand for: a sanity statement. -/
def Obligations.WrittenOutWordsDecode : Prop :=
  decode 0x1345 = .instr (.jp 0x345) ∧ decode 0x3310 = .instr (.seByte 3 0x10) ∧
  decode 0x81F4 = .instr (.addReg 1 15) ∧ decode 0xA300 = .instr (.ldI 0x300) ∧
  decode 0xD013 = .instr (.drw 0 1 3) ∧ decode 0xE19E = .instr (.skp 1) ∧ decode 0xF733 = .instr (.ldBVx 7) ∧
  decode 0x5121 = .unknown 0x5121 ∧ decode 0x8128 = .unknown 0x8128 ∧ decode 0xF1FF = .unknown 0xF1FF

/-! ### The STEP operation -/

/-- With the gates open and PC inside memory, a STEP is the effect of the instruction that the two bytes at PC, high
byte first, decode to (40_engine_cycle.md section 1). The effect includes the advance of PC and the fault commit. -/
def Obligations.StepRunsTheDecodedInstruction : Prop :=
  ∀ (s : State) (i : Instr), s.faulted = false → s.wait = false → s.pc.toNat + 1 ≤ 0xFFF →
    decode (BitVec.ofNat 16
      ((Memory.read s.mem s.pc.toNat).toNat * 256 + (Memory.read s.mem (s.pc.toNat + 1)).toNat)) = .instr i →
    step s = exec i s

/-- 30_encoding.md R54 and 40_engine_cycle.md R69: a word that no row of the table matches decodes to UNKNOWN, and a
STEP over it advances PC by 2 and changes nothing else. -/
def Obligations.UnknownWordsAreNoOps : Prop :=
  ∀ w : Word, (∀ r ∈ opcodeTable, r.accepts w = false) →
    decode w = .unknown w ∧
    ∀ s : State, s.faulted = false → s.wait = false → fetch s = .ok w →
      ∃ t, step s = .next t ∧ t.pc = s.pc + 2 ∧ SameBut [.pc] s t

/-- A faulted engine's STEP changes nothing, and so does a waiting engine's with no key latched; with a key latched the
waiting Fx0A completes (40_engine_cycle.md R62 and R63: the spec's own decisions D2, D10 and D18). That WAIT_X keeps its
value when the wait ends is the model's deduction (log 14) from the end state of P4 in 95_test_vectors.md. -/
def Obligations.GatesOfTheStep : Prop :=
  ∀ s : State,
    (s.faulted = true → step s = .next s) ∧
    (s.faulted = false → s.wait = true → s.lastKeyValid = false → step s = .next s) ∧
    (s.faulted = false → s.wait = true → s.lastKeyValid = true →
      ∃ t, step s = .next t ∧ t.pc = s.pc + 2 ∧
        (∀ r : Reg, t.reg r = if r = s.waitX then BitVec.ofNat 8 s.lastKeyVal.val else s.reg r) ∧
        t.lastKeyValid = false ∧ t.wait = false ∧ t.waitX = s.waitX ∧
        SameBut [.regs, .pc, .lastKey, .wait] s t)

/-- A fetch whose word lies partly or wholly past 0xFFF takes the fault FETCH_RANGE with the first address out of range
(40_engine_cycle.md R64, the spec's own decision D4). -/
def Obligations.FetchPastMemoryFaults : Prop :=
  ∀ s : State, s.faulted = false → s.wait = false → s.pc.toNat + 1 > 0xFFF →
    ∃ t, step s = .next t ∧ TakesFault .fetchRange (if s.pc.toNat > 0xFFF then s.pc else s.pc + 1) s t

/-- Every STEP, and every instruction on every state, answers a next state: no instruction is refused and no state
stops the machine. That a fault, after which the engine executes nothing more (60_exceptions.md R117, 40_engine_cycle.md
R62), is a next state that every later STEP leaves as it is, is the model's deduction (log 3). -/
def Obligations.EveryStepAnswersAState : Prop :=
  (∀ s : State, ∃ t, step s = .next t) ∧ (∀ (i : Instr) (s : State), ∃ t, exec i s = .next t)

/-! ### Control flow -/

/-- JP nnn: PC becomes nnn and nothing else changes (41_control_flow.md R75). -/
def Obligations.JumpSetsPc : Prop :=
  ∀ nnn : Imm12,
    decode (BitVec.ofNat 16 (0x1000 + nnn.toNat)) = .instr (.jp nnn) ∧
    ∀ s : State, ∃ t, exec (.jp nnn) s = .next t ∧ t.pc.toNat = nnn.toNat ∧ SameBut [.pc] s t

/-- The four conditional skips on registers: PC goes past one more word when the condition holds, and nothing else
changes (41_control_flow.md R77 to R80). -/
def Obligations.ConditionalSkips : Prop :=
  (∀ (x : Reg) (kk : Byte),
    decode (BitVec.ofNat 16 (0x3000 + x.val * 256 + kk.toNat)) = .instr (.seByte x kk) ∧
    ∀ s : State, ∃ t, exec (.seByte x kk) s = .next t ∧ Skips (s.reg x = kk) s t) ∧
  (∀ (x : Reg) (kk : Byte),
    decode (BitVec.ofNat 16 (0x4000 + x.val * 256 + kk.toNat)) = .instr (.sneByte x kk) ∧
    ∀ s : State, ∃ t, exec (.sneByte x kk) s = .next t ∧ Skips (s.reg x ≠ kk) s t) ∧
  (∀ x y : Reg,
    decode (BitVec.ofNat 16 (0x5000 + x.val * 256 + y.val * 16)) = .instr (.seReg x y) ∧
    ∀ s : State, ∃ t, exec (.seReg x y) s = .next t ∧ Skips (s.reg x = s.reg y) s t) ∧
  (∀ x y : Reg,
    decode (BitVec.ofNat 16 (0x9000 + x.val * 256 + y.val * 16)) = .instr (.sneReg x y) ∧
    ∀ s : State, ∃ t, exec (.sneReg x y) s = .next t ∧ Skips (s.reg x ≠ s.reg y) s t)

/-- JP V0, nnn: PC is nnn plus V0, at most 0x10FE and never a fault of its own; a target above 0xFFE is a fetch fault
of the next STEP (41_control_flow.md R81; the fetch fault is the spec's own decision D4). -/
def Obligations.JumpWithOffset : Prop :=
  ∀ nnn : Imm12,
    decode (BitVec.ofNat 16 (0xB000 + nnn.toNat)) = .instr (.jpV0 nnn) ∧
    ∀ s : State, ∃ t, exec (.jpV0 nnn) s = .next t ∧
      t.pc.toNat = nnn.toNat + (s.reg 0).toNat ∧ t.pc.toNat ≤ 0x10FE ∧ SameBut [.pc] s t ∧
      (s.faulted = false → s.wait = false → t.pc.toNat > 0xFFE →
        ∃ u, step t = .next u ∧ TakesFault .fetchRange (if t.pc.toNat > 0xFFF then t.pc else t.pc + 1) t u)

/-- CALL pushes the address after itself and jumps; with 16 entries in use it takes STACK_OVERFLOW
(41_control_flow.md R76, the spec's own decision D7). -/
def Obligations.CallPushesTheReturnAddress : Prop :=
  ∀ nnn : Imm12,
    decode (BitVec.ofNat 16 (0x2000 + nnn.toNat)) = .instr (.call nnn) ∧
    ∀ s : State,
      (s.sp.val < 16 → ∃ t, exec (.call nnn) s = .next t ∧ t.pc.toNat = nnn.toNat ∧ t.sp.val = s.sp.val + 1 ∧
        (∀ k : Fin 16, t.stack[k.val] = if k.val = s.sp.val then s.pc + 2 else s.stack[k.val]) ∧
        SameBut [.pc, .callStack] s t) ∧
      (s.sp.val = 16 → ∃ t, exec (.call nnn) s = .next t ∧ TakesFault .stackOverflow 0 s t)

/-- RET pops the call stack into PC and the popped entry keeps its value; with an empty stack it takes STACK_UNDERFLOW
(41_control_flow.md R74, the spec's own decision D7). -/
def Obligations.ReturnPopsTheCallStack : Prop :=
  decode 0x00EE = .instr .ret ∧
  ∀ s : State,
    (∀ k : Fin 16, s.sp.val = k.val + 1 → ∃ t, exec .ret s = .next t ∧
      t.pc = s.stack[k.val] ∧ t.sp.val = k.val ∧ t.stack = s.stack ∧ SameBut [.pc, .callStack] s t) ∧
    (s.sp.val = 0 → ∃ t, exec .ret s = .next t ∧ TakesFault .stackUnderflow 0 s t)

/-- A subroutine call and return restore PC to the instruction after the call, whatever the subroutine did, at every
call depth below 16, as long as the call stack is again as the call left it (41_control_flow.md R82, W6). -/
def Obligations.CallThenReturnComesBack : Prop :=
  ∀ (nnn : Imm12) (s t u : State), s.sp.val < 16 → exec (.call nnn) s = .next t →
    u.sp = t.sp → u.stack = t.stack →
    ∃ w, exec .ret u = .next w ∧ w.pc = s.pc + 2 ∧ w.sp = s.sp ∧
      (∀ k : Fin 16, k.val < s.sp.val → w.stack[k.val] = s.stack[k.val])

/-- At most 16 calls nest: as many calls as there is room for all push, a CALL with SP = 16 takes STACK_OVERFLOW, and a
RET with SP = 0 takes STACK_UNDERFLOW (60_exceptions.md R121 and R122, 70_reset_and_hazards.md R147; that SP counts
entries and that the two are faults is the spec's own decision D7). -/
def Obligations.AtMostSixteenCallsNest : Prop :=
  (∀ (targets : List Imm12) (s : State),
    (s.sp.val + targets.length ≤ 16 →
      ∃ t, execAll (targets.map .call) s = .next t ∧ t.sp.val = s.sp.val + targets.length ∧
        t.faulted = s.faulted) ∧
    (s.sp.val + targets.length = 16 → ∀ nnn : Imm12,
      ∃ t, execAll (targets.map .call ++ [.call nnn]) s = .next t ∧ t.faulted = true ∧
        t.faultCode = .stackOverflow ∧ t.sp.val = 16)) ∧
  (∀ s : State, s.sp.val = 0 →
    ∃ t, exec .ret s = .next t ∧ t.faulted = true ∧ t.faultCode = .stackUnderflow ∧ t.sp.val = 0)

/-- Nested calls return in the opposite order: after as many calls as there is room for and equally many returns, PC is
past the first call and the call stack's entries in use are as they were (41_control_flow.md R82, W6). -/
def Obligations.NestedCallsAllComeBack : Prop :=
  ∀ (nnn : Imm12) (targets : List Imm12) (s : State), s.sp.val + targets.length + 1 ≤ 16 →
    ∃ t, execAll ((nnn :: targets).map .call ++ List.replicate (targets.length + 1) .ret) s = .next t ∧
      t.pc = s.pc + 2 ∧ t.sp = s.sp ∧ (∀ k : Fin 16, k.val < s.sp.val → t.stack[k.val] = s.stack[k.val]) ∧
      SameBut [.pc, .callStack] s t

/-! ### Arithmetic and logic -/

/-- 42_alu.md R84 and R85: the immediate is loaded; the sum with the immediate wraps modulo 256, and VF is not written as
a carry. -/
def Obligations.ImmediateLoadAndAdd : Prop :=
  ∀ (x : Reg) (kk : Byte),
    decode (BitVec.ofNat 16 (0x6000 + x.val * 256 + kk.toNat)) = .instr (.ldByte x kk) ∧
    decode (BitVec.ofNat 16 (0x7000 + x.val * 256 + kk.toNat)) = .instr (.addByte x kk) ∧
    ∀ s : State,
      (∃ t, exec (.ldByte x kk) s = .next t ∧ WritesReg x kk s t) ∧
      (∃ t, exec (.addByte x kk) s = .next t ∧
        WritesReg x (BitVec.ofNat 8 (((s.reg x).toNat + kk.toNat) % 256)) s t)

/-- 42_alu.md R86 to R89: register copy and the three logic instructions, which leave VF alone unless it is x. -/
def Obligations.CopyAndLogic : Prop :=
  ∀ x y : Reg,
    decode (BitVec.ofNat 16 (0x8000 + x.val * 256 + y.val * 16)) = .instr (.ldReg x y) ∧
    decode (BitVec.ofNat 16 (0x8001 + x.val * 256 + y.val * 16)) = .instr (.orReg x y) ∧
    decode (BitVec.ofNat 16 (0x8002 + x.val * 256 + y.val * 16)) = .instr (.andReg x y) ∧
    decode (BitVec.ofNat 16 (0x8003 + x.val * 256 + y.val * 16)) = .instr (.xorReg x y) ∧
    ∀ s : State,
      (∃ t, exec (.ldReg x y) s = .next t ∧ WritesReg x (s.reg y) s t) ∧
      (∃ t, exec (.orReg x y) s = .next t ∧ WritesReg x (s.reg x ||| s.reg y) s t) ∧
      (∃ t, exec (.andReg x y) s = .next t ∧ WritesReg x (s.reg x &&& s.reg y) s t) ∧
      (∃ t, exec (.xorReg x y) s = .next t ∧ WritesReg x (s.reg x ^^^ s.reg y) s t)

/-- The sum and the two differences modulo 256 with their flags, all from the values before the instruction; with x = F
the carry is left by 8xy4 and the difference by 8xy5 and 8xy7 (42_alu.md R90, R91, R93; the order of the writes is the
spec's own decision D8). -/
def Obligations.SumAndDifferencesWithFlag : Prop :=
  ∀ x y : Reg,
    decode (BitVec.ofNat 16 (0x8004 + x.val * 256 + y.val * 16)) = .instr (.addReg x y) ∧
    decode (BitVec.ofNat 16 (0x8005 + x.val * 256 + y.val * 16)) = .instr (.subReg x y) ∧
    decode (BitVec.ofNat 16 (0x8007 + x.val * 256 + y.val * 16)) = .instr (.subnReg x y) ∧
    ∀ s : State,
      (∃ t, exec (.addReg x y) s = .next t ∧
        WritesRegThenFlag x (BitVec.ofNat 8 (((s.reg x).toNat + (s.reg y).toNat) % 256))
          (decide ((s.reg x).toNat + (s.reg y).toNat > 255)) s t) ∧
      (∃ t, exec (.subReg x y) s = .next t ∧
        WritesFlagThenReg x (BitVec.ofNat 8 (((s.reg x).toNat + 256 - (s.reg y).toNat) % 256))
          (decide ((s.reg x).toNat > (s.reg y).toNat)) s t) ∧
      (∃ t, exec (.subnReg x y) s = .next t ∧
        WritesFlagThenReg x (BitVec.ofNat 8 (((s.reg y).toNat + 256 - (s.reg x).toNat) % 256))
          (decide ((s.reg y).toNat > (s.reg x).toNat)) s t)

/-- The two shifts of Vx by one, with the bit shifted out as the flag; with x = F the shifted value is left in VF
(42_alu.md R92, R94; the order of the writes is the spec's own decision D8). -/
def Obligations.ShiftsByOneWithFlag : Prop :=
  ∀ (x : Reg) (s : State),
    (∃ t, exec (.shr x) s = .next t ∧
      WritesFlagThenReg x (BitVec.ofNat 8 ((s.reg x).toNat / 2)) (decide ((s.reg x).toNat % 2 = 1)) s t) ∧
    (∃ t, exec (.shl x) s = .next t ∧
      WritesFlagThenReg x (BitVec.ofNat 8 ((s.reg x).toNat * 2 % 256)) (decide ((s.reg x).toNat ≥ 128)) s t)

/-- RND writes the draw masked with kk and uses the draw up; whatever the draw is, no bit outside kk is set
(42_alu.md R95; that draws are counted in the state is the model's own choice, log 2). -/
def Obligations.RandomByteIsMasked : Prop :=
  ∀ (x : Reg) (kk : Byte),
    decode (BitVec.ofNat 16 (0xC000 + x.val * 256 + kk.toNat)) = .instr (.rnd x kk) ∧
    ∀ s : State, ∃ t, exec (.rnd x kk) s = .next t ∧ t.pc = s.pc + 2 ∧
      (∀ r : Reg, t.reg r = if r = x then Config.randomByte s.draws &&& kk else s.reg r) ∧
      t.reg x &&& ~~~ kk = 0 ∧ t.draws = s.draws + 1 ∧ SameBut [.regs, .pc, .draws] s t

/-! ### The index register and memory -/

/-- 43_index_memory.md R97 and R99: I takes the immediate, or five times the full byte Vx. -/
def Obligations.IndexLoads : Prop :=
  (∀ nnn : Imm12,
    decode (BitVec.ofNat 16 (0xA000 + nnn.toNat)) = .instr (.ldI nnn) ∧
    ∀ s : State, ∃ t, exec (.ldI nnn) s = .next t ∧
      t.i.toNat = nnn.toNat ∧ t.pc = s.pc + 2 ∧ SameBut [.index, .pc] s t) ∧
  (∀ x : Reg,
    decode (BitVec.ofNat 16 (0xF029 + x.val * 256)) = .instr (.ldFVx x) ∧
    ∀ s : State, ∃ t, exec (.ldFVx x) s = .next t ∧
      t.i.toNat = (s.reg x).toNat * 5 ∧ t.pc = s.pc + 2 ∧ SameBut [.index, .pc] s t)

/-- ADD I, Vx: modulo 2^16, VF untouched, no fault (43_index_memory.md R98, the spec's own decisions D3 and D5). -/
def Obligations.AddToIndexWraps : Prop :=
  ∀ x : Reg,
    decode (BitVec.ofNat 16 (0xF01E + x.val * 256)) = .instr (.addIVx x) ∧
    ∀ s : State, ∃ t, exec (.addIVx x) s = .next t ∧
      t.i.toNat = (s.i.toNat + (s.reg x).toNat) % 65536 ∧ t.pc = s.pc + 2 ∧ SameBut [.index, .pc] s t

/-- LD B, Vx stores the three decimal digits at I, I+1 and I+2 and nowhere else; a span past 0xFFF takes MEM_RANGE
before any byte is written (43_index_memory.md R100, the spec's own decisions D3 and D13). -/
def Obligations.BcdStore : Prop :=
  ∀ x : Reg,
    decode (BitVec.ofNat 16 (0xF033 + x.val * 256)) = .instr (.ldBVx x) ∧
    ∀ s : State,
      (s.i.toNat + 2 ≤ 0xFFF → ∃ t, exec (.ldBVx x) s = .next t ∧ t.pc = s.pc + 2 ∧
        (Memory.read t.mem s.i.toNat).toNat = (s.reg x).toNat / 100 ∧
        (Memory.read t.mem (s.i.toNat + 1)).toNat = (s.reg x).toNat / 10 % 10 ∧
        (Memory.read t.mem (s.i.toNat + 2)).toNat = (s.reg x).toNat % 10 ∧
        (∀ a : Nat, ¬ (s.i.toNat ≤ a ∧ a < s.i.toNat + 3) → Memory.read t.mem a = Memory.read s.mem a) ∧
        SameBut [.memory, .pc] s t) ∧
      (s.i.toNat + 2 > 0xFFF → ∃ t, exec (.ldBVx x) s = .next t ∧
        TakesFault .memRange (BitVec.ofNat 16 (max s.i.toNat 0x1000)) s t)

/-- LD [I], Vx stores V0 to Vx at I up and nowhere else; a span past 0xFFF takes MEM_RANGE before any byte is written
(43_index_memory.md R101, the spec's own decisions D3 and D13). -/
def Obligations.RegisterBlockStore : Prop :=
  ∀ x : Reg,
    decode (BitVec.ofNat 16 (0xF055 + x.val * 256)) = .instr (.ldMemVx x) ∧
    ∀ s : State,
      (s.i.toNat + x.val ≤ 0xFFF → ∃ t, exec (.ldMemVx x) s = .next t ∧ t.pc = s.pc + 2 ∧
        (∀ r : Reg, r.val ≤ x.val → Memory.read t.mem (s.i.toNat + r.val) = s.reg r) ∧
        (∀ a : Nat, ¬ (s.i.toNat ≤ a ∧ a ≤ s.i.toNat + x.val) → Memory.read t.mem a = Memory.read s.mem a) ∧
        SameBut [.memory, .pc] s t) ∧
      (s.i.toNat + x.val > 0xFFF → ∃ t, exec (.ldMemVx x) s = .next t ∧
        TakesFault .memRange (BitVec.ofNat 16 (max s.i.toNat 0x1000)) s t)

/-- LD Vx, [I] loads V0 to Vx from I up and no other register; a span past 0xFFF takes MEM_RANGE before any register is
written (43_index_memory.md R102, the spec's own decisions D3 and D13). -/
def Obligations.RegisterBlockLoad : Prop :=
  ∀ x : Reg,
    decode (BitVec.ofNat 16 (0xF065 + x.val * 256)) = .instr (.ldVxMem x) ∧
    ∀ s : State,
      (s.i.toNat + x.val ≤ 0xFFF → ∃ t, exec (.ldVxMem x) s = .next t ∧ t.pc = s.pc + 2 ∧
        (∀ r : Reg, t.reg r = if r.val ≤ x.val then Memory.read s.mem (s.i.toNat + r.val) else s.reg r) ∧
        SameBut [.regs, .pc] s t) ∧
      (s.i.toNat + x.val > 0xFFF → ∃ t, exec (.ldVxMem x) s = .next t ∧
        TakesFault .memRange (BitVec.ofNat 16 (max s.i.toNat 0x1000)) s t)

/-- A store is seen by the very next fetch: a block store over the word after the instruction is the word the next STEP
fetches (20_memory.md R44, derived there). -/
def Obligations.StoreIsSeenByTheNextFetch : Prop :=
  ∀ (s t : State) (x : Reg), 1 ≤ x.val → s.i = s.pc + 2 → s.i.toNat + x.val ≤ 0xFFF →
    exec (.ldMemVx x) s = .next t →
    fetch t = .ok (BitVec.ofNat 16 ((s.reg 0).toNat * 256 + (s.reg 1).toNat))

/-- Two memories in canonical form that read the same at every address are the same list, so equal memories are equal
data; and rewriting a byte with what it holds changes nothing at all (20_memory.md section 3, R40; the canonical form is
the model's own choice, log 7). -/
def Obligations.CanonicalMemoryIsItsBytes : Prop :=
  (∀ m m' : Memory, Memory.wf m → Memory.wf m' → (∀ a : Nat, Memory.read m a = Memory.read m' a) → m = m') ∧
  (∀ (m : Memory) (a : Nat), Memory.wf m → a < 4096 → Memory.write m a (Memory.read m a) = m)

/-! ### The display -/

/-- CLS turns every pixel to 0 and sets DIRTY, and changes nothing else but PC (44_display.md R105). -/
def Obligations.ClearDisplay : Prop :=
  decode 0x00E0 = .instr .cls ∧
  ∀ s : State, ∃ t, exec .cls s = .next t ∧ (∀ p : Fin 2048, Display.at t.disp p = false) ∧ t.dirty = true ∧
    t.pc = s.pc + 2 ∧ SameBut [.display, .dirty, .pc] s t

/-- The display changes only by CLS and DRW among instructions and by RESET and LOAD among the other operations, each of
which also sets DIRTY unless it is turned away; the host clears DIRTY (44_display.md R108). Turned away are a DRW that
faults (the spec's own decisions D3 and D13) and a LOAD that is too large (the spec's own decision D14). -/
def Obligations.DisplayChangesOnlyWithDirty : Prop :=
  (∀ (i : Instr) (s t : State), exec i s = .next t → t.disp ≠ s.disp →
    (i = .cls ∨ ∃ x y n, i = .drw x y n) ∧ t.dirty = true) ∧
  (∀ (font : Font) (op : Operation) (s t : State), op.perform font s = .next t → t.disp ≠ s.disp →
    (op = .step ∨ op = .reset ∨ ∃ bytes, op = .load bytes) ∧ t.dirty = true) ∧
  (∀ s : State, ∃ t, exec .cls s = .next t ∧ t.dirty = true) ∧
  (∀ (x y : Reg) (n : Fin 16) (s : State), s.faulted = false →
    ∃ t, exec (.drw x y n) s = .next t ∧ (t.faulted = false → t.dirty = true)) ∧
  (∀ (font : Font) (s : State), ∃ t, Operation.reset.perform font s = .next t ∧ t.dirty = true) ∧
  (∀ (font : Font) (bytes : List Byte) (s : State), ∃ t,
    (Operation.load bytes).perform font s = .next t ∧ ((Operation.load bytes).reply = .ok → t.dirty = true)) ∧
  (∀ (font : Font) (s : State), ∃ t, Operation.ackDirty.perform font s = .next t ∧ t.dirty = false)

/-- DRW flips exactly the pixels that the sprite covers and no other, and VF says whether a covered pixel was lit: the
raster loop of 44_display.md R106 computes the exclusive or with the set of sprite pixels that R107 describes. With a
span past 0xFFF it takes MEM_RANGE before anything is drawn. n = 0 draws nothing (the spec's own decisions D3, D12 and
D13). -/
def Obligations.DrawFlipsTheSpritePixels : Prop :=
  ∀ (x y : Reg) (n : Fin 16),
    decode (BitVec.ofNat 16 (0xD000 + x.val * 256 + y.val * 16 + n.val)) = .instr (.drw x y n) ∧
    ∀ s : State,
      (n.val = 0 ∨ s.i.toNat + n.val ≤ 0x1000 → ∃ t, exec (.drw x y n) s = .next t ∧
        (∀ (px : Fin 64) (py : Fin 32),
          (SpriteCovers (s.reg x) (s.reg y) (Memory.readBytes s.mem s.i.toNat n.val) px py →
            Display.pixel t.disp px py = !Display.pixel s.disp px py) ∧
          (¬ SpriteCovers (s.reg x) (s.reg y) (Memory.readBytes s.mem s.i.toNat n.val) px py →
            Display.pixel t.disp px py = Display.pixel s.disp px py)) ∧
        ((∃ (px : Fin 64) (py : Fin 32), Display.pixel s.disp px py = true ∧
            SpriteCovers (s.reg x) (s.reg y) (Memory.readBytes s.mem s.i.toNat n.val) px py) → t.reg 15 = 1) ∧
        ((¬ ∃ (px : Fin 64) (py : Fin 32), Display.pixel s.disp px py = true ∧
            SpriteCovers (s.reg x) (s.reg y) (Memory.readBytes s.mem s.i.toNat n.val) px py) → t.reg 15 = 0) ∧
        (∀ r : Reg, r ≠ 15 → t.reg r = s.reg r) ∧ t.dirty = true ∧ t.pc = s.pc + 2 ∧
        SameBut [.regs, .display, .dirty, .pc] s t) ∧
      (n.val ≥ 1 → s.i.toNat + n.val > 0x1000 → ∃ t, exec (.drw x y n) s = .next t ∧
        TakesFault .memRange (BitVec.ofNat 16 (max s.i.toNat 0x1000)) s t)

/-- Drawing the same sprite twice at the same place restores the display, and the second draw sets VF exactly when some
sprite pixel was 0 before the first (44_display.md R107, derived there). -/
def Obligations.DrawingTwiceRestoresTheDisplay : Prop :=
  ∀ (x y : Reg) (n : Fin 16) (s t : State), (n.val = 0 ∨ s.i.toNat + n.val ≤ 0x1000) →
    exec (.drw x y n) s = .next t → t.reg x = s.reg x → t.reg y = s.reg y →
    ∃ u, exec (.drw x y n) t = .next u ∧
      (∀ (px : Fin 64) (py : Fin 32), Display.pixel u.disp px py = Display.pixel s.disp px py) ∧
      (u.reg 15 = 1 ↔ ∃ (px : Fin 64) (py : Fin 32), Display.pixel s.disp px py = false ∧
        SpriteCovers (s.reg x) (s.reg y) (Memory.readBytes s.mem s.i.toNat n.val) px py)

/-! ### Keys and timers -/

/-- SKP and SKNP test KEY[Vx] with the full byte Vx; above 0xF they take KEY_RANGE (45_keys_timers.md R109 to R111; the
fault is the spec's own decision D9). -/
def Obligations.KeySkips : Prop :=
  ∀ x : Reg,
    decode (BitVec.ofNat 16 (0xE09E + x.val * 256)) = .instr (.skp x) ∧
    decode (BitVec.ofNat 16 (0xE0A1 + x.val * 256)) = .instr (.sknp x) ∧
    ∀ s : State,
      (∀ k : Key, (s.reg x).toNat = k.val →
        (∃ t, exec (.skp x) s = .next t ∧ Skips (s.key[k.val] = true) s t) ∧
        (∃ t, exec (.sknp x) s = .next t ∧ Skips (s.key[k.val] = false) s t)) ∧
      ((s.reg x).toNat > 0xF →
        (∃ t, exec (.skp x) s = .next t ∧ TakesFault .keyRange (BitVec.ofNat 16 (s.reg x).toNat) s t) ∧
        (∃ t, exec (.sknp x) s = .next t ∧ TakesFault .keyRange (BitVec.ofNat 16 (s.reg x).toNat) s t))

/-- DT is read into Vx, DT is set from Vx, ST is set from Vx, and nothing else changes but PC; and no instruction reads ST
back: whatever ST was, an instruction has the same effect on everything else (45_keys_timers.md R112, R114 and R115). -/
def Obligations.TimerTransfers : Prop :=
  (∀ x : Reg,
    decode (BitVec.ofNat 16 (0xF007 + x.val * 256)) = .instr (.ldVxDT x) ∧
    decode (BitVec.ofNat 16 (0xF015 + x.val * 256)) = .instr (.ldDTVx x) ∧
    decode (BitVec.ofNat 16 (0xF018 + x.val * 256)) = .instr (.ldSTVx x) ∧
    ∀ s : State,
      (∃ t, exec (.ldVxDT x) s = .next t ∧ WritesReg x s.dt s t) ∧
      (∃ t, exec (.ldDTVx x) s = .next t ∧ t.dt = s.reg x ∧ t.pc = s.pc + 2 ∧ SameBut [.delayTimer, .pc] s t) ∧
      (∃ t, exec (.ldSTVx x) s = .next t ∧ t.st = s.reg x ∧ t.pc = s.pc + 2 ∧ SameBut [.soundTimer, .pc] s t)) ∧
  (∀ (i : Instr) (s : State) (b : Byte), ∃ t b',
    exec i s = .next t ∧ exec i { s with st := b } = .next { t with st := b' })

/-- LD Vx, K takes a latched key at once; with none it stays on its own address and waits (45_keys_timers.md R113, the
spec's own decision D10). -/
def Obligations.KeyLoadCompletesOrWaits : Prop :=
  ∀ x : Reg,
    decode (BitVec.ofNat 16 (0xF00A + x.val * 256)) = .instr (.ldVxK x) ∧
    ∀ s : State,
      (s.lastKeyValid = true → ∃ t, exec (.ldVxK x) s = .next t ∧ t.pc = s.pc + 2 ∧
        (∀ r : Reg, t.reg r = if r = x then BitVec.ofNat 8 s.lastKeyVal.val else s.reg r) ∧
        t.lastKeyValid = false ∧ SameBut [.regs, .pc, .lastKey] s t) ∧
      (s.lastKeyValid = false → ∃ t, exec (.ldVxK x) s = .next t ∧
        t.wait = true ∧ t.waitX = x ∧ SameBut [.wait] s t)

/-- An Fx0A that finds no key keeps the engine where it is for any number of STEPs, and the first STEP after the host
latches a key completes it: Vx holds the key, PC is past the Fx0A, the key is consumed, and nothing else has changed
(40_engine_cycle.md R63, 45_keys_timers.md R113; the spec's own decision D10). -/
def Obligations.WaitEndsWithTheNextKey : Prop :=
  ∀ (font : Font) (x : Reg) (s : State) (n : Nat) (k : Key), RunsNext (.ldVxK x) s → s.lastKeyValid = false →
    ∃ t u, performAll font (List.replicate (n + 1) .step) s = .next t ∧
      t.wait = true ∧ t.waitX = x ∧ SameBut [.wait] s t ∧
      performAll font [.setLastKey k, .step] t = .next u ∧
      u.pc = s.pc + 2 ∧ u.wait = false ∧ u.lastKeyValid = false ∧
      (∀ r : Reg, u.reg r = if r = x then BitVec.ofNat 8 k.val else s.reg r) ∧
      SameBut [.regs, .pc, .lastKey, .wait] s u

/-! ### Faults -/

/-- A fault is precise: an instruction that faults leaves the fault record and nothing else, with PC on itself
(60_exceptions.md R117, the spec's own decision D2). -/
def Obligations.FaultsArePrecise : Prop :=
  ∀ (i : Instr) (s t : State), s.faulted = false → exec i s = .next t → t.faulted = true →
    t.faultCode ≠ .none ∧ t.faultPc = s.pc ∧ SameBut [.faultRecord] s t

/-- Which instruction faults, and when: exactly the cases of the table of 60_exceptions.md R118 (the spec's own
decisions D2, D3, D7 and D9). -/
def Obligations.FaultsExactlyWhere : Prop :=
  ∀ (i : Instr) (s t : State), s.faulted = false → exec i s = .next t →
    (t.faulted = true ↔
      (∃ nnn, i = .call nnn ∧ s.sp.val = 16) ∨ (i = .ret ∧ s.sp.val = 0) ∨
      (∃ x, (i = .skp x ∨ i = .sknp x) ∧ (s.reg x).toNat > 0xF) ∨
      (∃ x, i = .ldBVx x ∧ s.i.toNat + 2 > 0xFFF) ∨
      (∃ x, (i = .ldMemVx x ∨ i = .ldVxMem x) ∧ s.i.toNat + x.val > 0xFFF) ∨
      (∃ x y n, i = .drw x y n ∧ n.val ≥ 1 ∧ s.i.toNat + n.val - 1 > 0xFFF))

/-! ### Invariants -/

/-- Every STEP keeps the invariant: canonical memory (the model's own choice, log 7), a consistent fault record (the
spec's own decision D2), never waiting and faulted at once. -/
def Obligations.StepKeepsTheInvariant : Prop :=
  ∀ s t : State, Inv s → step s = .next t → Inv t

/-- The reset state meets the invariants. Its memory is canonical by the model's own choice (log 7); that WAIT and the
fault record are 0 after RESET is the spec's own decision D15. -/
def Obligations.ResetMeetsTheInvariants : Prop :=
  Inv State.reset ∧ WaitsAtItsInstruction State.reset ∧ FaultIsOfPc State.reset

/-- Every operation of the host keeps the invariant, so every state the host can bring an engine to meets it, whatever its
FONT. Canonical memory, a part of the invariant, and a run as a list of operations are the model's own choices (log 7 and
log 12). -/
def Obligations.EveryReachableStateMeetsTheInvariant : Prop :=
  (∀ (font : Font) (op : Operation) (s t : State), Inv s → op.perform font s = .next t → Inv t) ∧
  (∀ (font : Font) (s : State), Reachable font s → Inv s)

/-- Every STEP keeps a waiting engine on the Fx0A it waits in, with WAIT_X that instruction's x (10_state.md R17 and
R25: the spec's own decision D10). -/
def Obligations.StepKeepsTheWaitOnItsInstruction : Prop :=
  ∀ s t : State, WaitsAtItsInstruction s → step s = .next t → WaitsAtItsInstruction t

/-- Every STEP keeps a recorded fault the fault of the instruction at PC: run again without the record, it takes the
same fault (60_exceptions.md R117: the spec's own decision D2). -/
def Obligations.StepKeepsTheFaultOfPc : Prop :=
  ∀ s t : State, Inv s → FaultIsOfPc s → step s = .next t → FaultIsOfPc t

/-! ### Rules about the whole machine -/

/-- Which instructions may change what, of everything but the registers, PC and the fault record: DT only Fx15, ST only
Fx18, KEY none, I only Annn, Fx1E and Fx29, the call stack only 2nnn and 00EE, memory only Fx33 and Fx55, the display
and DIRTY only 00E0 and Dxyn, LAST_KEY and the wait state only Fx0A (10_state.md sections 2 to 8; for memory
20_memory.md section 3, R39). -/
def Obligations.OnlyTheNamedInstructionsChangeIt : Prop :=
  ∀ (i : Instr) (s t : State), exec i s = .next t →
    t.key = s.key ∧
    (t.dt = s.dt ∨ ∃ x, i = .ldDTVx x) ∧ (t.st = s.st ∨ ∃ x, i = .ldSTVx x) ∧
    (t.i = s.i ∨ (∃ nnn, i = .ldI nnn) ∨ (∃ x, i = .addIVx x ∨ i = .ldFVx x)) ∧
    ((t.sp = s.sp ∧ t.stack = s.stack) ∨ i = .ret ∨ ∃ nnn, i = .call nnn) ∧
    (t.mem = s.mem ∨ ∃ x, i = .ldBVx x ∨ i = .ldMemVx x) ∧
    ((t.disp = s.disp ∧ t.dirty = s.dirty) ∨ i = .cls ∨ ∃ x y n, i = .drw x y n) ∧
    ((t.lastKeyValid = s.lastKeyValid ∧ t.lastKeyVal = s.lastKeyVal ∧ t.wait = s.wait ∧ t.waitX = s.waitX) ∨
      ∃ x, i = .ldVxK x)

/-- Which registers an instruction may change: its destination, the block V0..Vx of Fx65, and VF for the six
instructions that write it as a side effect (10_state.md R14 and R15). -/
def Obligations.OnlyNamedRegistersChange : Prop :=
  ∀ (i : Instr) (s t : State) (r : Reg), exec i s = .next t → t.reg r ≠ s.reg r →
    (r = 15 ∧ ((∃ x y, i = .addReg x y ∨ i = .subReg x y ∨ i = .subnReg x y) ∨ (∃ x, i = .shr x ∨ i = .shl x) ∨
      (∃ x y n, i = .drw x y n))) ∨
    (∃ kk, i = .ldByte r kk ∨ i = .addByte r kk ∨ i = .rnd r kk) ∨
    (∃ y, i = .ldReg r y ∨ i = .orReg r y ∨ i = .andReg r y ∨ i = .xorReg r y ∨ i = .addReg r y ∨
      i = .subReg r y ∨ i = .subnReg r y) ∨
    i = .shr r ∨ i = .shl r ∨ i = .ldVxDT r ∨ i = .ldVxK r ∨ (∃ x : Reg, i = .ldVxMem x ∧ r.val ≤ x.val)

/-- No STEP reads ST or DIRTY: changing them before a STEP changes nothing else after it (10_state.md R19, R22). -/
def Obligations.SoundTimerAndDirtyAreNotRead : Prop :=
  ∀ (s : State) (b : Byte) (d : Bool), ∃ t b' d', step s = .next t ∧
    step { s with st := b, dirty := d } = .next { t with st := b', dirty := d' }

/-- A quiescent state stays as it is under a STEP: faulted, or waiting with no key latched, or at a JP to its own
address (70_reset_and_hazards.md R152). -/
def Obligations.QuiescentStatesStay : Prop :=
  ∀ s : State, Quiescent s → step s = .next s

/-! ### The host's operations -/

/-- RESET of an engine with any FONT, from any state, puts every element at its reset value, FONT at 0x000 included, which
is the state the engine's runs begin in but for the count of draws; with the default FONT that is `State.reset`
(70_reset_and_hazards.md R138, 00_scope.md R7; the values of KEY, LAST_KEY, WAIT and the fault record are the spec's own
decision D15, FONT is D16 and log 1, the count of draws is log 2). -/
def Obligations.ResetPutsEveryElement : Prop :=
  State.resetOf Config.font = State.reset ∧
  ∀ (font : Font) (s : State),
    ∃ t, Operation.reset.perform font s = .next t ∧ t = { State.resetOf font with draws := s.draws } ∧
      (∀ r : Reg, t.reg r = 0) ∧ t.i = 0 ∧ t.pc = 0x200 ∧ t.sp = 0 ∧ (∀ k : Fin 16, t.stack[k.val] = 0) ∧
      t.dt = 0 ∧ t.st = 0 ∧
      (∀ k : Fin 80, Memory.read t.mem k.val = font[k.val]) ∧ (∀ a : Nat, 80 ≤ a → Memory.read t.mem a = 0) ∧
      (∀ p : Fin 2048, Display.at t.disp p = false) ∧ t.dirty = true ∧ (∀ k : Key, t.key[k.val] = false) ∧
      t.lastKeyValid = false ∧ t.lastKeyVal = 0 ∧ t.wait = false ∧ t.waitX = 0 ∧
      t.faulted = false ∧ t.faultCode = .none ∧ t.faultPc = 0 ∧ t.faultInfo = 0 ∧ t.draws = s.draws

/-- LOAD copies a program that fits to 0x200 up, clears the display and sets DIRTY, and changes nothing else; a longer
one is refused and changes nothing (70_reset_and_hazards.md R139 and R140; the spec's own decisions D14 and D27). -/
def Obligations.LoadCopiesOrRefuses : Prop :=
  ∀ (font : Font) (s : State) (bytes : List Byte),
    (bytes.length ≤ 3584 → (Operation.load bytes).reply = .ok ∧
      ∃ t, (Operation.load bytes).perform font s = .next t ∧
        (∀ a : Nat, Memory.read t.mem a =
          if 0x200 ≤ a ∧ a < 0x200 + bytes.length then bytes.getD (a - 0x200) 0 else Memory.read s.mem a) ∧
        (∀ p : Fin 2048, Display.at t.disp p = false) ∧ t.dirty = true ∧ SameBut [.memory, .display, .dirty] s t) ∧
    (bytes.length > 3584 → (Operation.load bytes).reply = .loadTooLarge ∧
      (Operation.load bytes).perform font s = .next s)

/-- After RESET and LOAD the first STEP fetches the program's first two bytes, high byte first
(70_reset_and_hazards.md R141, W8). -/
def Obligations.FirstFetchAfterLoad : Prop :=
  ∀ (font : Font) (s : State) (hi lo : Byte) (rest : List Byte), rest.length ≤ 3582 →
    ∃ t, performAll font [.reset, .load (hi :: lo :: rest)] s = .next t ∧ t.faulted = false ∧ t.wait = false ∧
      fetch t = .ok (BitVec.ofNat 16 (hi.toNat * 256 + lo.toNat))

/-- TICK counts each timer down by one, stopping at zero, in every engine state, and changes nothing else
(60_exceptions.md R130; that it is an operation of its own is the spec's decision D17). -/
def Obligations.TickCountsTimersDown : Prop :=
  ∀ (font : Font) (s : State), ∃ t, Operation.tick.perform font s = .next t ∧ t.dt.toNat = s.dt.toNat - 1 ∧
    t.st.toNat = s.st.toNat - 1 ∧ SameBut [.delayTimer, .soundTimer] s t

/-- ACK_DIRTY clears DIRTY and changes nothing else (60_exceptions.md R134). -/
def Obligations.AckDirtyClearsDirty : Prop :=
  ∀ (font : Font) (s : State), ∃ t, Operation.ackDirty.perform font s = .next t ∧ t.dirty = false ∧ SameBut [.dirty] s t

/-- The host's key operations write the one key, or LAST_KEY, and nothing else (60_exceptions.md R133, the spec's own
decisions D10 and D26). -/
def Obligations.HostKeyOperations : Prop :=
  ∀ (font : Font) (s : State) (k : Key),
    (∀ b : Bool, ∃ t, (Operation.setKey k b).perform font s = .next t ∧
      (∀ j : Key, t.key[j.val] = if j = k then b else s.key[j.val]) ∧ SameBut [.keys] s t) ∧
    (∃ t, (Operation.setLastKey k).perform font s = .next t ∧ t.lastKeyValid = true ∧ t.lastKeyVal = k ∧
      SameBut [.lastKey] s t) ∧
    (∃ t, Operation.clearLastKey.perform font s = .next t ∧ t.lastKeyValid = false ∧ SameBut [.lastKey] s t)

/-- The six fault codes have the numbers 0 to 5 (60_exceptions.md R118, the spec's own decision D2), and the status word
holds each flag in its place, the number of the fault code only while faulted, and zeros in its reserved bits
(10_state.md R27, the spec's own decision D21). -/
def Obligations.StatusLayout : Prop :=
  (FaultCode.none.number = 0 ∧ FaultCode.fetchRange.number = 1 ∧ FaultCode.memRange.number = 2 ∧
    FaultCode.stackOverflow.number = 3 ∧ FaultCode.stackUnderflow.number = 4 ∧ FaultCode.keyRange.number = 5) ∧
  ∀ s : State,
    s.status.getLsbD 0 = s.dirty ∧ s.status.getLsbD 1 = s.wait ∧ s.status.getLsbD 2 = s.faulted ∧
    s.status.toNat / 8 % 8 = (if s.faulted = true then s.faultCode.number else 0) ∧ s.status.toNat / 64 % 4 = 0 ∧
    s.status.toNat / 256 % 16 = s.waitX.val ∧ s.status.getLsbD 12 = s.lastKeyValid ∧ s.status.toNat / 8192 = 0
end

