-- ==== Sys2Proof/Laws/Decode.lean ====
section
/-!
SUPPORT. The fields of a word as arithmetic on its number, and what the decoder answers for each opcode family, so that
proofs about words cite these and do not unfold the decoder.
-/

namespace Sys2Proof

/-! ### The fields of a word -/

theorem fieldOp_ofNat (n : Nat) : fieldOp (BitVec.ofNat 16 n) = n / 4096 % 16 := by
  simp only [fieldOp, bits, BitVec.toNat_ofNat]
  omega

theorem fieldX_ofNat (n : Nat) : (fieldX (BitVec.ofNat 16 n)).val = n / 256 % 16 := by
  simp only [fieldX, bits, BitVec.toNat_ofNat, Fin.ofNat]
  omega

theorem fieldY_ofNat (n : Nat) : (fieldY (BitVec.ofNat 16 n)).val = n / 16 % 16 := by
  simp only [fieldY, bits, BitVec.toNat_ofNat, Fin.ofNat]
  omega

theorem fieldN_ofNat (n : Nat) : (fieldN (BitVec.ofNat 16 n)).val = n % 16 := by
  simp only [fieldN, bits, BitVec.toNat_ofNat, Fin.ofNat]
  omega

theorem fieldKK_ofNat (n : Nat) : (fieldKK (BitVec.ofNat 16 n)).toNat = n % 256 := by
  simp only [fieldKK, bits, BitVec.toNat_ofNat]
  omega

theorem fieldNNN_ofNat (n : Nat) : (fieldNNN (BitVec.ofNat 16 n)).toNat = n % 4096 := by
  simp only [fieldNNN, bits, BitVec.toNat_ofNat]
  omega

/-! ### The opcode families -/

theorem decode_family0 {w : Word} (h : fieldOp w = 0x0) : decode w = decodeFamily0 w := by simp [decode, h]
theorem decode_family1 {w : Word} (h : fieldOp w = 0x1) : decode w = .instr (.jp (fieldNNN w)) := by simp [decode, h]
theorem decode_family2 {w : Word} (h : fieldOp w = 0x2) : decode w = .instr (.call (fieldNNN w)) := by
  simp [decode, h]
theorem decode_family3 {w : Word} (h : fieldOp w = 0x3) : decode w = .instr (.seByte (fieldX w) (fieldKK w)) := by
  simp [decode, h]
theorem decode_family4 {w : Word} (h : fieldOp w = 0x4) : decode w = .instr (.sneByte (fieldX w) (fieldKK w)) := by
  simp [decode, h]
theorem decode_family5 {w : Word} (h : fieldOp w = 0x5) : decode w = decodeFamily5 w := by simp [decode, h]
theorem decode_family6 {w : Word} (h : fieldOp w = 0x6) : decode w = .instr (.ldByte (fieldX w) (fieldKK w)) := by
  simp [decode, h]
theorem decode_family7 {w : Word} (h : fieldOp w = 0x7) : decode w = .instr (.addByte (fieldX w) (fieldKK w)) := by
  simp [decode, h]
theorem decode_family8 {w : Word} (h : fieldOp w = 0x8) : decode w = decodeFamily8 w := by simp [decode, h]
theorem decode_family9 {w : Word} (h : fieldOp w = 0x9) : decode w = decodeFamily9 w := by simp [decode, h]
theorem decode_familyA {w : Word} (h : fieldOp w = 0xA) : decode w = .instr (.ldI (fieldNNN w)) := by simp [decode, h]
theorem decode_familyB {w : Word} (h : fieldOp w = 0xB) : decode w = .instr (.jpV0 (fieldNNN w)) := by
  simp [decode, h]
theorem decode_familyC {w : Word} (h : fieldOp w = 0xC) : decode w = .instr (.rnd (fieldX w) (fieldKK w)) := by
  simp [decode, h]
theorem decode_familyD {w : Word} (h : fieldOp w = 0xD) :
    decode w = .instr (.drw (fieldX w) (fieldY w) (fieldN w)) := by simp [decode, h]
theorem decode_familyE {w : Word} (h : fieldOp w = 0xE) : decode w = decodeFamilyE w := by simp [decode, h]
theorem decode_familyF {w : Word} (h : fieldOp w = 0xF) : decode w = decodeFamilyF w := by simp [decode, h]

/-- The opcode family is one of sixteen. -/
theorem fieldOp_lt (w : Word) : fieldOp w < 16 := by
  simp only [fieldOp, bits]
  omega

end Sys2Proof
end

