-- ==== Sys2Proof/Laws/Memory.lean ====
section
/-!
SUPPORT. The laws of memory: a read after a write, that every operation keeps the canonical form, and what the span
operations answer (spec/20_memory.md R36, R40).
-/

namespace Sys2Proof.Machine

/-! ### A read after a write -/

theorem Memory.read_filter_other (m : Memory) {a b : Nat} (h : b ≠ a) :
    Memory.read (m.filter fun c => c.1 != a) b = Memory.read m b := by
  induction m with
  | nil => rfl
  | cons c rest ih =>
    obtain ⟨k, v⟩ := c
    by_cases hk : k = a
    · subst hk
      simp [Memory.read, ih, h.symm]
    · simp [hk, Memory.read, ih]

theorem Memory.read_filter_same (m : Memory) (a : Nat) :
    Memory.read (m.filter fun c => c.1 != a) a = Memory.initial a := by
  induction m with
  | nil => rfl
  | cons c rest ih =>
    obtain ⟨k, v⟩ := c
    by_cases hk : k = a
    · subst hk
      simp [ih]
    · simp [hk, Memory.read, ih]

theorem Memory.read_insert (m : Memory) (a c : Nat) (b : Byte) (h : ∀ e ∈ m, e.1 ≠ a) :
    Memory.read (Memory.insert a b m) c = if c = a then b else Memory.read m c := by
  induction m with
  | nil => simp [Memory.insert, Memory.read, eq_comm (a := c)]
  | cons e rest ih =>
    obtain ⟨k, v⟩ := e
    have hk : k ≠ a := h (k, v) (by simp)
    have hr : ∀ e ∈ rest, e.1 ≠ a := fun e he => h e (by simp [he])
    by_cases hlt : a < k
    · simp [Memory.insert, hlt, Memory.read, eq_comm (a := c)]
    · by_cases hc : c = a
      · subst hc
        simp [Memory.insert, hlt, Memory.read, ih hr, hk]
      · simp [Memory.insert, hlt, Memory.read, ih hr, hc]

/-- A read sees the last byte written to its address, and a write leaves every other address alone. -/
theorem Memory.read_write (m : Memory) (a c : Nat) (b : Byte) :
    Memory.read (Memory.write m a b) c = if c = a then b else Memory.read m c := by
  by_cases hb : b = Memory.initial a
  · by_cases hc : c = a
    · subst hc
      simp only [Memory.write, Memory.read_filter_same, if_true, hb]
    · simp [Memory.write, hb, hc, Memory.read_filter_other m hc]
  · have hf : ∀ e ∈ m.filter (fun c => c.1 != a), e.1 ≠ a := by
      intro e he
      simpa using (List.mem_filter.mp he).2
    by_cases hc : c = a
    · simp [Memory.write, hb, Memory.read_insert _ _ _ _ hf, hc]
    · simp [Memory.write, hb, Memory.read_insert _ _ _ _ hf, hc, Memory.read_filter_other m hc]

/-- A read after a run of bytes is written: inside the run the byte put there, elsewhere what was there. -/
theorem Memory.read_writeBytes (bytes : List Byte) (m : Memory) (base c : Nat) :
    Memory.read (Memory.writeBytes m base bytes) c =
      if base ≤ c ∧ c < base + bytes.length then bytes.getD (c - base) 0 else Memory.read m c := by
  induction bytes generalizing m base with
  | nil =>
    have : ¬ (base ≤ c ∧ c < base) := by omega
    simp [Memory.writeBytes, this]
  | cons b rest ih =>
    rw [Memory.writeBytes, ih, Memory.read_write]
    by_cases h1 : c = base
    · subst h1
      have h0 : ¬ (c + 1 ≤ c ∧ c < c + 1 + rest.length) := by omega
      rw [if_neg h0]
      simp
    · by_cases h2 : base + 1 ≤ c ∧ c < base + 1 + rest.length
      · have h3 : base ≤ c ∧ c < base + (rest.length + 1) := by omega
        have h4 : c - base = (c - (base + 1)) + 1 := by omega
        simp [h2, h3, h4]
      · have h3 : ¬ (base ≤ c ∧ c < base + (rest.length + 1)) := by omega
        rw [if_neg h2, if_neg h1, List.length_cons, if_neg h3]

@[simp] theorem Memory.readBytes_length (m : Memory) (base count : Nat) :
    (Memory.readBytes m base count).length = count := by
  simp [Memory.readBytes]

theorem Memory.readBytes_getD (m : Memory) {base count k : Nat} (h : k < count) (d : Byte) :
    (Memory.readBytes m base count).getD k d = Memory.read m (base + k) := by
  simp [Memory.readBytes, List.getD_eq_getElem?_getD, h]

/-! ### The canonical form -/

theorem Memory.mem_insert {a : Nat} {b : Byte} {m : Memory} {c : Host.Cell} :
    c ∈ Memory.insert a b m ↔ c = (a, b) ∨ c ∈ m := by
  induction m with
  | nil => simp [Memory.insert]
  | cons e rest ih =>
    obtain ⟨k, v⟩ := e
    by_cases hlt : a < k
    · simp [Memory.insert, hlt]
    · simp [Memory.insert, hlt, ih, or_left_comm]

theorem Memory.insert_rising {a : Nat} {b : Byte} {m : Memory} (hm : m.Pairwise fun c d => c.1 < d.1)
    (h : ∀ e ∈ m, e.1 ≠ a) : (Memory.insert a b m).Pairwise fun c d => c.1 < d.1 := by
  induction m with
  | nil => simp [Memory.insert]
  | cons e rest ih =>
    obtain ⟨k, v⟩ := e
    have hk : k ≠ a := h (k, v) (by simp)
    obtain ⟨hhead, htail⟩ := List.pairwise_cons.mp hm
    by_cases hlt : a < k
    · rw [Memory.insert, if_pos hlt]
      refine List.pairwise_cons.mpr ⟨?_, hm⟩
      intro e he
      rcases List.mem_cons.mp he with rfl | he
      · exact hlt
      · exact Nat.lt_trans hlt (hhead e he)
    · rw [Memory.insert, if_neg hlt]
      refine List.pairwise_cons.mpr ⟨?_, ih htail fun e he => h e (by simp [he])⟩
      intro e he
      rcases Memory.mem_insert.mp he with rfl | he
      · simp only
        omega
      · exact hhead e he

/-- A write inside memory keeps the canonical form. -/
theorem Memory.write_wf {m : Memory} {a : Nat} (b : Byte) (hm : Memory.wf m) (ha : a < Config.memSize) :
    Memory.wf (Memory.write m a b) := by
  obtain ⟨hrise, hcell⟩ := hm
  have hrise' := hrise.filter (fun c : Host.Cell => c.1 != a)
  have hcell' : ∀ c ∈ m.filter (fun c => c.1 != a), c.1 < Config.memSize ∧ c.2 ≠ Memory.initial c.1 :=
    fun c hc => hcell c (List.mem_filter.mp hc).1
  by_cases hb : b = Memory.initial a
  · simp only [Memory.write, if_pos hb]
    exact ⟨hrise', hcell'⟩
  · have hne : ∀ e ∈ m.filter (fun c => c.1 != a), e.1 ≠ a := by
      intro e he
      simpa using (List.mem_filter.mp he).2
    have hins := Memory.insert_rising (b := b) hrise' hne
    rw [Memory.write]
    simp only [hb, if_false]
    refine ⟨hins, ?_⟩
    intro c hc
    rcases Memory.mem_insert.mp hc with rfl | hc
    · exact ⟨ha, hb⟩
    · exact hcell' c hc

/-- A run of bytes written inside memory keeps the canonical form. -/
theorem Memory.writeBytes_wf (bytes : List Byte) {m : Memory} {base : Nat} (hm : Memory.wf m)
    (h : base + bytes.length ≤ Config.memSize) : Memory.wf (Memory.writeBytes m base bytes) := by
  induction bytes generalizing m base with
  | nil => exact hm
  | cons b rest ih =>
    simp only [List.length_cons] at h
    rw [Memory.writeBytes]
    exact ih (Memory.write_wf b hm (by omega)) (by omega)

/-- Memory after RESET lists nothing, so it is in canonical form. -/
theorem Memory.reset_wf : Memory.wf State.reset.mem := by
  simp [Memory.wf, State.reset]

/-! ### The spans -/

/-- A range check passes exactly when the whole span lies inside memory. -/
theorem checkRange_ok {base count : Nat} (h : base + count ≤ Config.memSize) : checkRange base count = .ok () := by
  have : ¬ base + count - 1 > Config.addrMax := by simp only [Config.memSize, Config.addrMax] at *; omega
  simp [checkRange, this]

theorem checkRange_error {base count : Nat} (h : base + count - 1 > Config.addrMax) :
    checkRange base count = .error ⟨.memRange, BitVec.ofNat 16 (max base (Config.addrMax + 1))⟩ := by
  simp [checkRange, h]

/-- A span that is read is the bytes of memory there, and lies inside memory. -/
theorem readSpan_ok {m : Memory} {base count : Nat} {bytes : List Byte} (h : readSpan m base count = .ok bytes) :
    bytes = Memory.readBytes m base count ∧ base + count - 1 ≤ Config.addrMax := by
  by_cases hr : base + count - 1 > Config.addrMax
  · simp [readSpan, checkRange_error hr] at h
  · simp [readSpan, checkRange, hr] at h
    exact ⟨h.symm, by omega⟩

theorem readSpan_in {m : Memory} {base count : Nat} (h : base + count ≤ Config.memSize) :
    readSpan m base count = .ok (Memory.readBytes m base count) := by
  simp [readSpan, checkRange_ok h]

theorem readSpan_out {m : Memory} {base count : Nat} (h : base + count - 1 > Config.addrMax) :
    readSpan m base count = .error ⟨.memRange, BitVec.ofNat 16 (max base (Config.addrMax + 1))⟩ := by
  simp [readSpan, checkRange_error h]

/-- A span that is written is memory with the bytes there, and lies inside memory. -/
theorem writeSpan_ok {m m' : Memory} {base : Nat} {bytes : List Byte} (h : writeSpan m base bytes = .ok m') :
    m' = Memory.writeBytes m base bytes ∧ base + bytes.length - 1 ≤ Config.addrMax := by
  by_cases hr : base + bytes.length - 1 > Config.addrMax
  · simp [writeSpan, checkRange_error hr] at h
  · simp [writeSpan, checkRange, hr] at h
    exact ⟨h.symm, by omega⟩

theorem writeSpan_in {m : Memory} {base : Nat} {bytes : List Byte} (h : base + bytes.length ≤ Config.memSize) :
    writeSpan m base bytes = .ok (Memory.writeBytes m base bytes) := by
  simp [writeSpan, checkRange_ok h]

theorem writeSpan_out {m : Memory} {base : Nat} {bytes : List Byte} (h : base + bytes.length - 1 > Config.addrMax) :
    writeSpan m base bytes = .error ⟨.memRange, BitVec.ofNat 16 (max base (Config.addrMax + 1))⟩ := by
  simp [writeSpan, checkRange_error h]

/-- A span can fail in one way only: MEM_RANGE. -/
theorem readSpan_error {m : Memory} {base count : Nat} {r : Raised} (h : readSpan m base count = .error r) :
    r = ⟨.memRange, BitVec.ofNat 16 (max base (Config.addrMax + 1))⟩ ∧ base + count - 1 > Config.addrMax := by
  by_cases hr : base + count - 1 > Config.addrMax
  · simp [readSpan, checkRange_error hr] at h
    exact ⟨h.symm, hr⟩
  · simp [readSpan, checkRange, hr] at h

theorem writeSpan_error {m : Memory} {base : Nat} {bytes : List Byte} {r : Raised}
    (h : writeSpan m base bytes = .error r) :
    r = ⟨.memRange, BitVec.ofNat 16 (max base (Config.addrMax + 1))⟩ ∧
      base + bytes.length - 1 > Config.addrMax := by
  by_cases hr : base + bytes.length - 1 > Config.addrMax
  · simp [writeSpan, checkRange_error hr] at h
    exact ⟨h.symm, hr⟩
  · simp [writeSpan, checkRange, hr] at h

/-- `MemRead` inside memory is the byte there, and outside it raises MEM_RANGE with the address (20_memory.md R36). -/
theorem memRead_eq (m : Memory) (a : Nat) :
    memRead m a = if a > Config.addrMax then .error ⟨.memRange, BitVec.ofNat 16 a⟩ else .ok (Memory.read m a) := by
  by_cases h : a > Config.addrMax
  · have h' : a + 1 - 1 > Config.addrMax := by omega
    have hm : max a (Config.addrMax + 1) = a := by omega
    simp only [memRead, readSpan_out h', hm, if_pos h]
  · have h' : a + 1 ≤ Config.memSize := by simp only [Config.memSize, Config.addrMax] at *; omega
    simp [memRead, readSpan_in h', h]

/-- `MemWrite` inside memory writes the byte, and outside it raises MEM_RANGE with the address (20_memory.md R36). -/
theorem memWrite_eq (m : Memory) (a : Nat) (b : Byte) :
    memWrite m a b =
      if a > Config.addrMax then .error ⟨.memRange, BitVec.ofNat 16 a⟩ else .ok (Memory.write m a b) := by
  by_cases h : a > Config.addrMax
  · have h' : a + [b].length - 1 > Config.addrMax := by simp only [List.length_singleton]; omega
    have hm : max a (Config.addrMax + 1) = a := by omega
    simp only [memWrite, writeSpan_out h', hm, h, if_true]
  · have h' : a + [b].length ≤ Config.memSize := by
      simp only [List.length_singleton, Config.memSize, Config.addrMax] at *; omega
    simp [memWrite, writeSpan_in h', h, Memory.writeBytes]

end Sys2Proof.Machine
end

