-- ==== Sys2Proof/Laws/State.lean ====
section
/-!
SUPPORT. One lemma for each field after each named update of the state, so that no proof unfolds a record update.
-/

namespace Sys2Proof.Machine

/-! ### Reading a register after an update -/

@[simp] theorem State.reg_setReg_same (s : State) (x : Reg) (b : Byte) : (s.setReg x b).reg x = b := by
  simp [State.reg, State.setReg]

@[simp] theorem State.reg_setReg_other (s : State) {x r : Reg} (b : Byte) (h : r ≠ x) :
    (s.setReg x b).reg r = s.reg r := by
  have hv : x.val ≠ r.val := fun e => h (Fin.ext e.symm)
  simp only [State.reg, State.setReg]
  exact Vector.getElem_set_ne _ _ hv

theorem State.reg_setReg (s : State) (x r : Reg) (b : Byte) :
    (s.setReg x b).reg r = if r = x then b else s.reg r := by
  by_cases h : r = x
  · subst h; simp
  · simp [h]

@[simp] theorem State.reg_advance (s : State) (r : Reg) : s.advance.reg r = s.reg r := rfl

@[simp] theorem State.reg_takeFault (s : State) (f : Raised) (r : Reg) : (s.takeFault f).reg r = s.reg r := rfl

@[simp] theorem State.reg_skipIf (s : State) (c : Bool) (r : Reg) : (s.skipIf c).reg r = s.reg r := by
  cases c <;> rfl

/-- After a result and then a flag, VF holds the flag and the destination the result, unless it is VF itself. -/
theorem State.reg_setResultThenFlag (s : State) (x r : Reg) (b : Byte) (f : Bool) :
    (s.setResultThenFlag x b f).reg r = if r = vf then flagByte f else if r = x then b else s.reg r := by
  simp [State.setResultThenFlag, State.reg_setReg]

/-- After a flag and then a result, the destination holds the result, VF the flag unless it is the destination. -/
theorem State.reg_setFlagThenResult (s : State) (x r : Reg) (b : Byte) (f : Bool) :
    (s.setFlagThenResult x b f).reg r = if r = x then b else if r = vf then flagByte f else s.reg r := by
  simp [State.setFlagThenResult, State.reg_setReg]

/-! ### `setReg` -/

@[simp] theorem State.setReg_v (s : State) (x : Reg) (b : Byte) : (s.setReg x b).v = s.v.set x.val b x.isLt := rfl
@[simp] theorem State.setReg_i (s : State) (x : Reg) (b : Byte) : (s.setReg x b).i = s.i := rfl
@[simp] theorem State.setReg_pc (s : State) (x : Reg) (b : Byte) : (s.setReg x b).pc = s.pc := rfl
@[simp] theorem State.setReg_sp (s : State) (x : Reg) (b : Byte) : (s.setReg x b).sp = s.sp := rfl
@[simp] theorem State.setReg_stack (s : State) (x : Reg) (b : Byte) : (s.setReg x b).stack = s.stack := rfl
@[simp] theorem State.setReg_dt (s : State) (x : Reg) (b : Byte) : (s.setReg x b).dt = s.dt := rfl
@[simp] theorem State.setReg_st (s : State) (x : Reg) (b : Byte) : (s.setReg x b).st = s.st := rfl
@[simp] theorem State.setReg_mem (s : State) (x : Reg) (b : Byte) : (s.setReg x b).mem = s.mem := rfl
@[simp] theorem State.setReg_disp (s : State) (x : Reg) (b : Byte) : (s.setReg x b).disp = s.disp := rfl
@[simp] theorem State.setReg_dirty (s : State) (x : Reg) (b : Byte) : (s.setReg x b).dirty = s.dirty := rfl
@[simp] theorem State.setReg_key (s : State) (x : Reg) (b : Byte) : (s.setReg x b).key = s.key := rfl
@[simp] theorem State.setReg_lastKeyValid (s : State) (x : Reg) (b : Byte) : (s.setReg x b).lastKeyValid = s.lastKeyValid := rfl
@[simp] theorem State.setReg_lastKeyVal (s : State) (x : Reg) (b : Byte) : (s.setReg x b).lastKeyVal = s.lastKeyVal := rfl
@[simp] theorem State.setReg_wait (s : State) (x : Reg) (b : Byte) : (s.setReg x b).wait = s.wait := rfl
@[simp] theorem State.setReg_waitX (s : State) (x : Reg) (b : Byte) : (s.setReg x b).waitX = s.waitX := rfl
@[simp] theorem State.setReg_faulted (s : State) (x : Reg) (b : Byte) : (s.setReg x b).faulted = s.faulted := rfl
@[simp] theorem State.setReg_faultCode (s : State) (x : Reg) (b : Byte) : (s.setReg x b).faultCode = s.faultCode := rfl
@[simp] theorem State.setReg_faultPc (s : State) (x : Reg) (b : Byte) : (s.setReg x b).faultPc = s.faultPc := rfl
@[simp] theorem State.setReg_faultInfo (s : State) (x : Reg) (b : Byte) : (s.setReg x b).faultInfo = s.faultInfo := rfl
@[simp] theorem State.setReg_draws (s : State) (x : Reg) (b : Byte) : (s.setReg x b).draws = s.draws := rfl

/-! ### `advance` -/

@[simp] theorem State.advance_v (s : State) : (s.advance).v = s.v := rfl
@[simp] theorem State.advance_i (s : State) : (s.advance).i = s.i := rfl
@[simp] theorem State.advance_pc (s : State) : (s.advance).pc = s.pc + 2 := rfl
@[simp] theorem State.advance_sp (s : State) : (s.advance).sp = s.sp := rfl
@[simp] theorem State.advance_stack (s : State) : (s.advance).stack = s.stack := rfl
@[simp] theorem State.advance_dt (s : State) : (s.advance).dt = s.dt := rfl
@[simp] theorem State.advance_st (s : State) : (s.advance).st = s.st := rfl
@[simp] theorem State.advance_mem (s : State) : (s.advance).mem = s.mem := rfl
@[simp] theorem State.advance_disp (s : State) : (s.advance).disp = s.disp := rfl
@[simp] theorem State.advance_dirty (s : State) : (s.advance).dirty = s.dirty := rfl
@[simp] theorem State.advance_key (s : State) : (s.advance).key = s.key := rfl
@[simp] theorem State.advance_lastKeyValid (s : State) : (s.advance).lastKeyValid = s.lastKeyValid := rfl
@[simp] theorem State.advance_lastKeyVal (s : State) : (s.advance).lastKeyVal = s.lastKeyVal := rfl
@[simp] theorem State.advance_wait (s : State) : (s.advance).wait = s.wait := rfl
@[simp] theorem State.advance_waitX (s : State) : (s.advance).waitX = s.waitX := rfl
@[simp] theorem State.advance_faulted (s : State) : (s.advance).faulted = s.faulted := rfl
@[simp] theorem State.advance_faultCode (s : State) : (s.advance).faultCode = s.faultCode := rfl
@[simp] theorem State.advance_faultPc (s : State) : (s.advance).faultPc = s.faultPc := rfl
@[simp] theorem State.advance_faultInfo (s : State) : (s.advance).faultInfo = s.faultInfo := rfl
@[simp] theorem State.advance_draws (s : State) : (s.advance).draws = s.draws := rfl

/-! ### `skipIf` -/

@[simp] theorem State.skipIf_v (s : State) (c : Bool) : (s.skipIf c).v = s.v := by cases c <;> rfl
@[simp] theorem State.skipIf_i (s : State) (c : Bool) : (s.skipIf c).i = s.i := by cases c <;> rfl
@[simp] theorem State.skipIf_pc (s : State) (c : Bool) : (s.skipIf c).pc = if c then s.pc + 2 else s.pc := by cases c <;> rfl
@[simp] theorem State.skipIf_sp (s : State) (c : Bool) : (s.skipIf c).sp = s.sp := by cases c <;> rfl
@[simp] theorem State.skipIf_stack (s : State) (c : Bool) : (s.skipIf c).stack = s.stack := by cases c <;> rfl
@[simp] theorem State.skipIf_dt (s : State) (c : Bool) : (s.skipIf c).dt = s.dt := by cases c <;> rfl
@[simp] theorem State.skipIf_st (s : State) (c : Bool) : (s.skipIf c).st = s.st := by cases c <;> rfl
@[simp] theorem State.skipIf_mem (s : State) (c : Bool) : (s.skipIf c).mem = s.mem := by cases c <;> rfl
@[simp] theorem State.skipIf_disp (s : State) (c : Bool) : (s.skipIf c).disp = s.disp := by cases c <;> rfl
@[simp] theorem State.skipIf_dirty (s : State) (c : Bool) : (s.skipIf c).dirty = s.dirty := by cases c <;> rfl
@[simp] theorem State.skipIf_key (s : State) (c : Bool) : (s.skipIf c).key = s.key := by cases c <;> rfl
@[simp] theorem State.skipIf_lastKeyValid (s : State) (c : Bool) : (s.skipIf c).lastKeyValid = s.lastKeyValid := by cases c <;> rfl
@[simp] theorem State.skipIf_lastKeyVal (s : State) (c : Bool) : (s.skipIf c).lastKeyVal = s.lastKeyVal := by cases c <;> rfl
@[simp] theorem State.skipIf_wait (s : State) (c : Bool) : (s.skipIf c).wait = s.wait := by cases c <;> rfl
@[simp] theorem State.skipIf_waitX (s : State) (c : Bool) : (s.skipIf c).waitX = s.waitX := by cases c <;> rfl
@[simp] theorem State.skipIf_faulted (s : State) (c : Bool) : (s.skipIf c).faulted = s.faulted := by cases c <;> rfl
@[simp] theorem State.skipIf_faultCode (s : State) (c : Bool) : (s.skipIf c).faultCode = s.faultCode := by cases c <;> rfl
@[simp] theorem State.skipIf_faultPc (s : State) (c : Bool) : (s.skipIf c).faultPc = s.faultPc := by cases c <;> rfl
@[simp] theorem State.skipIf_faultInfo (s : State) (c : Bool) : (s.skipIf c).faultInfo = s.faultInfo := by cases c <;> rfl
@[simp] theorem State.skipIf_draws (s : State) (c : Bool) : (s.skipIf c).draws = s.draws := by cases c <;> rfl

/-! ### `takeFault` -/

@[simp] theorem State.takeFault_v (s : State) (r : Raised) : (s.takeFault r).v = s.v := rfl
@[simp] theorem State.takeFault_i (s : State) (r : Raised) : (s.takeFault r).i = s.i := rfl
@[simp] theorem State.takeFault_pc (s : State) (r : Raised) : (s.takeFault r).pc = s.pc := rfl
@[simp] theorem State.takeFault_sp (s : State) (r : Raised) : (s.takeFault r).sp = s.sp := rfl
@[simp] theorem State.takeFault_stack (s : State) (r : Raised) : (s.takeFault r).stack = s.stack := rfl
@[simp] theorem State.takeFault_dt (s : State) (r : Raised) : (s.takeFault r).dt = s.dt := rfl
@[simp] theorem State.takeFault_st (s : State) (r : Raised) : (s.takeFault r).st = s.st := rfl
@[simp] theorem State.takeFault_mem (s : State) (r : Raised) : (s.takeFault r).mem = s.mem := rfl
@[simp] theorem State.takeFault_disp (s : State) (r : Raised) : (s.takeFault r).disp = s.disp := rfl
@[simp] theorem State.takeFault_dirty (s : State) (r : Raised) : (s.takeFault r).dirty = s.dirty := rfl
@[simp] theorem State.takeFault_key (s : State) (r : Raised) : (s.takeFault r).key = s.key := rfl
@[simp] theorem State.takeFault_lastKeyValid (s : State) (r : Raised) : (s.takeFault r).lastKeyValid = s.lastKeyValid := rfl
@[simp] theorem State.takeFault_lastKeyVal (s : State) (r : Raised) : (s.takeFault r).lastKeyVal = s.lastKeyVal := rfl
@[simp] theorem State.takeFault_wait (s : State) (r : Raised) : (s.takeFault r).wait = s.wait := rfl
@[simp] theorem State.takeFault_waitX (s : State) (r : Raised) : (s.takeFault r).waitX = s.waitX := rfl
@[simp] theorem State.takeFault_faulted (s : State) (r : Raised) : (s.takeFault r).faulted = true := rfl
@[simp] theorem State.takeFault_faultCode (s : State) (r : Raised) : (s.takeFault r).faultCode = r.code := rfl
@[simp] theorem State.takeFault_faultPc (s : State) (r : Raised) : (s.takeFault r).faultPc = s.pc := rfl
@[simp] theorem State.takeFault_faultInfo (s : State) (r : Raised) : (s.takeFault r).faultInfo = r.info := rfl
@[simp] theorem State.takeFault_draws (s : State) (r : Raised) : (s.takeFault r).draws = s.draws := rfl

/-! ### `tick` -/

@[simp] theorem State.tick_v (s : State) : (s.tick).v = s.v := rfl
@[simp] theorem State.tick_i (s : State) : (s.tick).i = s.i := rfl
@[simp] theorem State.tick_pc (s : State) : (s.tick).pc = s.pc := rfl
@[simp] theorem State.tick_sp (s : State) : (s.tick).sp = s.sp := rfl
@[simp] theorem State.tick_stack (s : State) : (s.tick).stack = s.stack := rfl
@[simp] theorem State.tick_dt (s : State) : (s.tick).dt = countDown s.dt := rfl
@[simp] theorem State.tick_st (s : State) : (s.tick).st = countDown s.st := rfl
@[simp] theorem State.tick_mem (s : State) : (s.tick).mem = s.mem := rfl
@[simp] theorem State.tick_disp (s : State) : (s.tick).disp = s.disp := rfl
@[simp] theorem State.tick_dirty (s : State) : (s.tick).dirty = s.dirty := rfl
@[simp] theorem State.tick_key (s : State) : (s.tick).key = s.key := rfl
@[simp] theorem State.tick_lastKeyValid (s : State) : (s.tick).lastKeyValid = s.lastKeyValid := rfl
@[simp] theorem State.tick_lastKeyVal (s : State) : (s.tick).lastKeyVal = s.lastKeyVal := rfl
@[simp] theorem State.tick_wait (s : State) : (s.tick).wait = s.wait := rfl
@[simp] theorem State.tick_waitX (s : State) : (s.tick).waitX = s.waitX := rfl
@[simp] theorem State.tick_faulted (s : State) : (s.tick).faulted = s.faulted := rfl
@[simp] theorem State.tick_faultCode (s : State) : (s.tick).faultCode = s.faultCode := rfl
@[simp] theorem State.tick_faultPc (s : State) : (s.tick).faultPc = s.faultPc := rfl
@[simp] theorem State.tick_faultInfo (s : State) : (s.tick).faultInfo = s.faultInfo := rfl
@[simp] theorem State.tick_draws (s : State) : (s.tick).draws = s.draws := rfl

/-! ### `setKey` -/

@[simp] theorem State.setKey_v (s : State) (k : Key) (b : Bool) : (s.setKey k b).v = s.v := rfl
@[simp] theorem State.setKey_i (s : State) (k : Key) (b : Bool) : (s.setKey k b).i = s.i := rfl
@[simp] theorem State.setKey_pc (s : State) (k : Key) (b : Bool) : (s.setKey k b).pc = s.pc := rfl
@[simp] theorem State.setKey_sp (s : State) (k : Key) (b : Bool) : (s.setKey k b).sp = s.sp := rfl
@[simp] theorem State.setKey_stack (s : State) (k : Key) (b : Bool) : (s.setKey k b).stack = s.stack := rfl
@[simp] theorem State.setKey_dt (s : State) (k : Key) (b : Bool) : (s.setKey k b).dt = s.dt := rfl
@[simp] theorem State.setKey_st (s : State) (k : Key) (b : Bool) : (s.setKey k b).st = s.st := rfl
@[simp] theorem State.setKey_mem (s : State) (k : Key) (b : Bool) : (s.setKey k b).mem = s.mem := rfl
@[simp] theorem State.setKey_disp (s : State) (k : Key) (b : Bool) : (s.setKey k b).disp = s.disp := rfl
@[simp] theorem State.setKey_dirty (s : State) (k : Key) (b : Bool) : (s.setKey k b).dirty = s.dirty := rfl
@[simp] theorem State.setKey_key (s : State) (k : Key) (b : Bool) : (s.setKey k b).key = s.key.set k.val b k.isLt := rfl
@[simp] theorem State.setKey_lastKeyValid (s : State) (k : Key) (b : Bool) : (s.setKey k b).lastKeyValid = s.lastKeyValid := rfl
@[simp] theorem State.setKey_lastKeyVal (s : State) (k : Key) (b : Bool) : (s.setKey k b).lastKeyVal = s.lastKeyVal := rfl
@[simp] theorem State.setKey_wait (s : State) (k : Key) (b : Bool) : (s.setKey k b).wait = s.wait := rfl
@[simp] theorem State.setKey_waitX (s : State) (k : Key) (b : Bool) : (s.setKey k b).waitX = s.waitX := rfl
@[simp] theorem State.setKey_faulted (s : State) (k : Key) (b : Bool) : (s.setKey k b).faulted = s.faulted := rfl
@[simp] theorem State.setKey_faultCode (s : State) (k : Key) (b : Bool) : (s.setKey k b).faultCode = s.faultCode := rfl
@[simp] theorem State.setKey_faultPc (s : State) (k : Key) (b : Bool) : (s.setKey k b).faultPc = s.faultPc := rfl
@[simp] theorem State.setKey_faultInfo (s : State) (k : Key) (b : Bool) : (s.setKey k b).faultInfo = s.faultInfo := rfl
@[simp] theorem State.setKey_draws (s : State) (k : Key) (b : Bool) : (s.setKey k b).draws = s.draws := rfl

/-! ### `setLastKey` -/

@[simp] theorem State.setLastKey_v (s : State) (k : Key) : (s.setLastKey k).v = s.v := rfl
@[simp] theorem State.setLastKey_i (s : State) (k : Key) : (s.setLastKey k).i = s.i := rfl
@[simp] theorem State.setLastKey_pc (s : State) (k : Key) : (s.setLastKey k).pc = s.pc := rfl
@[simp] theorem State.setLastKey_sp (s : State) (k : Key) : (s.setLastKey k).sp = s.sp := rfl
@[simp] theorem State.setLastKey_stack (s : State) (k : Key) : (s.setLastKey k).stack = s.stack := rfl
@[simp] theorem State.setLastKey_dt (s : State) (k : Key) : (s.setLastKey k).dt = s.dt := rfl
@[simp] theorem State.setLastKey_st (s : State) (k : Key) : (s.setLastKey k).st = s.st := rfl
@[simp] theorem State.setLastKey_mem (s : State) (k : Key) : (s.setLastKey k).mem = s.mem := rfl
@[simp] theorem State.setLastKey_disp (s : State) (k : Key) : (s.setLastKey k).disp = s.disp := rfl
@[simp] theorem State.setLastKey_dirty (s : State) (k : Key) : (s.setLastKey k).dirty = s.dirty := rfl
@[simp] theorem State.setLastKey_key (s : State) (k : Key) : (s.setLastKey k).key = s.key := rfl
@[simp] theorem State.setLastKey_lastKeyValid (s : State) (k : Key) : (s.setLastKey k).lastKeyValid = true := rfl
@[simp] theorem State.setLastKey_lastKeyVal (s : State) (k : Key) : (s.setLastKey k).lastKeyVal = k := rfl
@[simp] theorem State.setLastKey_wait (s : State) (k : Key) : (s.setLastKey k).wait = s.wait := rfl
@[simp] theorem State.setLastKey_waitX (s : State) (k : Key) : (s.setLastKey k).waitX = s.waitX := rfl
@[simp] theorem State.setLastKey_faulted (s : State) (k : Key) : (s.setLastKey k).faulted = s.faulted := rfl
@[simp] theorem State.setLastKey_faultCode (s : State) (k : Key) : (s.setLastKey k).faultCode = s.faultCode := rfl
@[simp] theorem State.setLastKey_faultPc (s : State) (k : Key) : (s.setLastKey k).faultPc = s.faultPc := rfl
@[simp] theorem State.setLastKey_faultInfo (s : State) (k : Key) : (s.setLastKey k).faultInfo = s.faultInfo := rfl
@[simp] theorem State.setLastKey_draws (s : State) (k : Key) : (s.setLastKey k).draws = s.draws := rfl

/-! ### `clearLastKey` -/

@[simp] theorem State.clearLastKey_v (s : State) : (s.clearLastKey).v = s.v := rfl
@[simp] theorem State.clearLastKey_i (s : State) : (s.clearLastKey).i = s.i := rfl
@[simp] theorem State.clearLastKey_pc (s : State) : (s.clearLastKey).pc = s.pc := rfl
@[simp] theorem State.clearLastKey_sp (s : State) : (s.clearLastKey).sp = s.sp := rfl
@[simp] theorem State.clearLastKey_stack (s : State) : (s.clearLastKey).stack = s.stack := rfl
@[simp] theorem State.clearLastKey_dt (s : State) : (s.clearLastKey).dt = s.dt := rfl
@[simp] theorem State.clearLastKey_st (s : State) : (s.clearLastKey).st = s.st := rfl
@[simp] theorem State.clearLastKey_mem (s : State) : (s.clearLastKey).mem = s.mem := rfl
@[simp] theorem State.clearLastKey_disp (s : State) : (s.clearLastKey).disp = s.disp := rfl
@[simp] theorem State.clearLastKey_dirty (s : State) : (s.clearLastKey).dirty = s.dirty := rfl
@[simp] theorem State.clearLastKey_key (s : State) : (s.clearLastKey).key = s.key := rfl
@[simp] theorem State.clearLastKey_lastKeyValid (s : State) : (s.clearLastKey).lastKeyValid = false := rfl
@[simp] theorem State.clearLastKey_lastKeyVal (s : State) : (s.clearLastKey).lastKeyVal = s.lastKeyVal := rfl
@[simp] theorem State.clearLastKey_wait (s : State) : (s.clearLastKey).wait = s.wait := rfl
@[simp] theorem State.clearLastKey_waitX (s : State) : (s.clearLastKey).waitX = s.waitX := rfl
@[simp] theorem State.clearLastKey_faulted (s : State) : (s.clearLastKey).faulted = s.faulted := rfl
@[simp] theorem State.clearLastKey_faultCode (s : State) : (s.clearLastKey).faultCode = s.faultCode := rfl
@[simp] theorem State.clearLastKey_faultPc (s : State) : (s.clearLastKey).faultPc = s.faultPc := rfl
@[simp] theorem State.clearLastKey_faultInfo (s : State) : (s.clearLastKey).faultInfo = s.faultInfo := rfl
@[simp] theorem State.clearLastKey_draws (s : State) : (s.clearLastKey).draws = s.draws := rfl

/-! ### `ackDirty` -/

@[simp] theorem State.ackDirty_v (s : State) : (s.ackDirty).v = s.v := rfl
@[simp] theorem State.ackDirty_i (s : State) : (s.ackDirty).i = s.i := rfl
@[simp] theorem State.ackDirty_pc (s : State) : (s.ackDirty).pc = s.pc := rfl
@[simp] theorem State.ackDirty_sp (s : State) : (s.ackDirty).sp = s.sp := rfl
@[simp] theorem State.ackDirty_stack (s : State) : (s.ackDirty).stack = s.stack := rfl
@[simp] theorem State.ackDirty_dt (s : State) : (s.ackDirty).dt = s.dt := rfl
@[simp] theorem State.ackDirty_st (s : State) : (s.ackDirty).st = s.st := rfl
@[simp] theorem State.ackDirty_mem (s : State) : (s.ackDirty).mem = s.mem := rfl
@[simp] theorem State.ackDirty_disp (s : State) : (s.ackDirty).disp = s.disp := rfl
@[simp] theorem State.ackDirty_dirty (s : State) : (s.ackDirty).dirty = false := rfl
@[simp] theorem State.ackDirty_key (s : State) : (s.ackDirty).key = s.key := rfl
@[simp] theorem State.ackDirty_lastKeyValid (s : State) : (s.ackDirty).lastKeyValid = s.lastKeyValid := rfl
@[simp] theorem State.ackDirty_lastKeyVal (s : State) : (s.ackDirty).lastKeyVal = s.lastKeyVal := rfl
@[simp] theorem State.ackDirty_wait (s : State) : (s.ackDirty).wait = s.wait := rfl
@[simp] theorem State.ackDirty_waitX (s : State) : (s.ackDirty).waitX = s.waitX := rfl
@[simp] theorem State.ackDirty_faulted (s : State) : (s.ackDirty).faulted = s.faulted := rfl
@[simp] theorem State.ackDirty_faultCode (s : State) : (s.ackDirty).faultCode = s.faultCode := rfl
@[simp] theorem State.ackDirty_faultPc (s : State) : (s.ackDirty).faultPc = s.faultPc := rfl
@[simp] theorem State.ackDirty_faultInfo (s : State) : (s.ackDirty).faultInfo = s.faultInfo := rfl
@[simp] theorem State.ackDirty_draws (s : State) : (s.ackDirty).draws = s.draws := rfl

/-! ### `withoutFault` -/

@[simp] theorem State.withoutFault_v (s : State) : (s.withoutFault).v = s.v := rfl
@[simp] theorem State.withoutFault_i (s : State) : (s.withoutFault).i = s.i := rfl
@[simp] theorem State.withoutFault_pc (s : State) : (s.withoutFault).pc = s.pc := rfl
@[simp] theorem State.withoutFault_sp (s : State) : (s.withoutFault).sp = s.sp := rfl
@[simp] theorem State.withoutFault_stack (s : State) : (s.withoutFault).stack = s.stack := rfl
@[simp] theorem State.withoutFault_dt (s : State) : (s.withoutFault).dt = s.dt := rfl
@[simp] theorem State.withoutFault_st (s : State) : (s.withoutFault).st = s.st := rfl
@[simp] theorem State.withoutFault_mem (s : State) : (s.withoutFault).mem = s.mem := rfl
@[simp] theorem State.withoutFault_disp (s : State) : (s.withoutFault).disp = s.disp := rfl
@[simp] theorem State.withoutFault_dirty (s : State) : (s.withoutFault).dirty = s.dirty := rfl
@[simp] theorem State.withoutFault_key (s : State) : (s.withoutFault).key = s.key := rfl
@[simp] theorem State.withoutFault_lastKeyValid (s : State) : (s.withoutFault).lastKeyValid = s.lastKeyValid := rfl
@[simp] theorem State.withoutFault_lastKeyVal (s : State) : (s.withoutFault).lastKeyVal = s.lastKeyVal := rfl
@[simp] theorem State.withoutFault_wait (s : State) : (s.withoutFault).wait = s.wait := rfl
@[simp] theorem State.withoutFault_waitX (s : State) : (s.withoutFault).waitX = s.waitX := rfl
@[simp] theorem State.withoutFault_faulted (s : State) : (s.withoutFault).faulted = false := rfl
@[simp] theorem State.withoutFault_faultCode (s : State) : (s.withoutFault).faultCode = .none := rfl
@[simp] theorem State.withoutFault_faultPc (s : State) : (s.withoutFault).faultPc = 0 := rfl
@[simp] theorem State.withoutFault_faultInfo (s : State) : (s.withoutFault).faultInfo = 0 := rfl
@[simp] theorem State.withoutFault_draws (s : State) : (s.withoutFault).draws = s.draws := rfl

end Sys2Proof.Machine
end

