-- ==== Sys2Proof/Laws/Ops.lean ====
section
/-!
SUPPORT. What each shared operation can do, said once: the frame of an execute phase, the call stack, key numbers, the
display, the register block, fetch and the wait poll.
-/

namespace Sys2Proof.Machine

/-! ### The frame of an execute phase -/

@[simp] theorem State.commit_ok (s t : State) : s.commit (.ok t) = t := rfl

@[simp] theorem State.commit_error (s : State) (r : Raised) : s.commit (.error r) = s.takeFault r := rfl

theorem execute_ok {s t : State} {body : State → Except Raised State} (h : body s.advance = .ok t) :
    execute s body = .next t := by
  simp [execute, h, State.commit]

theorem execute_error {s : State} {r : Raised} {body : State → Except Raised State}
    (h : body s.advance = .error r) : execute s body = .next (s.takeFault r) := by
  simp [execute, h, State.commit]

/-- An execute phase answers its own result or the fault it raised, and nothing else. -/
theorem execute_cases {s t : State} {body : State → Except Raised State} (h : execute s body = .next t) :
    body s.advance = .ok t ∨ ∃ r, body s.advance = .error r ∧ t = s.takeFault r := by
  cases hb : body s.advance with
  | ok u => rw [execute_ok hb] at h; exact .inl (by simpa using h)
  | error r => rw [execute_error hb] at h; exact .inr ⟨r, rfl, by simpa using h.symm⟩

/-! ### The call stack -/

theorem State.pushPc_of_room {t : State} (h : t.sp.val < 16) :
    t.pushPc = .ok { t with stack := t.stack.set t.sp.val t.pc h, sp := ⟨t.sp.val + 1, by omega⟩ } := by
  simp [State.pushPc, h]

theorem State.pushPc_full {t : State} (h : t.sp.val = 16) : t.pushPc = .error ⟨.stackOverflow, 0⟩ := by
  simp [State.pushPc, h]

theorem State.popPc_of_entry {t : State} (h : 0 < t.sp.val) :
    t.popPc = .ok { t with sp := ⟨t.sp.val - 1, by omega⟩, pc := t.stack[t.sp.val - 1]'(by omega) } := by
  simp [State.popPc, h]

theorem State.popPc_empty {t : State} (h : t.sp.val = 0) : t.popPc = .error ⟨.stackUnderflow, 0⟩ := by
  simp [State.popPc, h]

/-! ### Key numbers -/

theorem keyIndex_in {b : Byte} (h : b.toNat < 16) : keyIndex b = .ok ⟨b.toNat, h⟩ := by
  simp [keyIndex, h]

theorem keyIndex_out {b : Byte} (h : ¬ b.toNat < 16) : keyIndex b = .error ⟨.keyRange, zextByte b⟩ := by
  simp [keyIndex, h]

/-! ### The display -/

theorem setBit_getLsbD (row : BitVec 64) (px qx : Fin 64) (b : Bool) :
    (setBit row px b).getLsbD qx.val = if qx = px then b else row.getLsbD qx.val := by
  have hq := qx.isLt
  by_cases h : qx = px
  · subst h
    cases b <;> simp [setBit]
  · have hne : px.val ≠ qx.val := fun e => h (Fin.ext e.symm)
    cases b <;> simp [setBit, h, hne.symm, hq]

/-- Setting a pixel gives that pixel its value and leaves every other pixel alone. -/
theorem Display.pixel_setPixel (d : Display) (px qx : Fin 64) (py qy : Fin 32) (b : Bool) :
    Display.pixel (Display.setPixel d px py b) qx qy =
      if qx = px ∧ qy = py then b else Display.pixel d qx qy := by
  by_cases hy : qy = py
  · subst hy
    simp only [Display.pixel, Display.setPixel, Vector.getElem_set_self, setBit_getLsbD, and_true]
  · have hne : py.val ≠ qy.val := fun e => hy (Fin.ext e.symm)
    simp [Display.pixel, Display.setPixel, hne, hy]

@[simp] theorem Display.pixel_clear (px : Fin 64) (py : Fin 32) : Display.pixel Display.clear px py = false := by
  simp [Display.pixel, Display.clear]

/-! ### The register block -/

theorem State.block_length (s : State) (x : Reg) : (s.block x).length = x.val + 1 := by
  simp only [State.block, List.length_take, Vector.length_toList]
  omega

theorem State.block_getD (s : State) {x r : Reg} (h : r.val ≤ x.val) (d : Byte) :
    (s.block x).getD r.val d = s.reg r := by
  have h1 : r.val < x.val + 1 := by omega
  simp [State.block, State.reg, h1]

theorem loadBlock_getElem (v : Vector Byte 16) (bytes : List Byte) (r : Reg) :
    (loadBlock v bytes)[r.val]'r.isLt = bytes.getD r.val (v[r.val]'r.isLt) := by
  simp [loadBlock]

/-! ### Fetch, the wait poll and the step -/

theorem fetch_in {s : State} (h : s.pc.toNat + 1 ≤ Config.addrMax) :
    fetch s = .ok (Word.ofBytes (Memory.read s.mem s.pc.toNat) (Memory.read s.mem (s.pc.toNat + 1))) := by
  have : ¬ s.pc.toNat + 1 > Config.addrMax := by omega
  simp [fetch, this]

theorem fetch_out {s : State} (h : s.pc.toNat + 1 > Config.addrMax) :
    fetch s = .error ⟨.fetchRange, if s.pc.toNat > Config.addrMax then s.pc else s.pc + 1⟩ := by
  simp [fetch, h]

theorem waitPoll_none {s : State} (h : s.lastKeyValid = false) : waitPoll s = s := by
  simp [waitPoll, h]

theorem waitPoll_key {s : State} (h : s.lastKeyValid = true) :
    waitPoll s =
      { s.setReg s.waitX (keyByte s.lastKeyVal) with lastKeyValid := false, wait := false, pc := s.pc + 2 } := by
  simp [waitPoll, h]

/-- What one STEP can do: nothing (faulted), poll (waiting), take a fetch fault, pass over an UNKNOWN word, or run the
instruction at PC. -/
theorem step_cases {s t : State} (h : Sys2Proof.Machine.step s = .next t) :
    (s.faulted = true ∧ t = s) ∨
    (s.faulted = false ∧ s.wait = true ∧ t = waitPoll s) ∨
    (s.faulted = false ∧ s.wait = false ∧ ∃ r, fetch s = .error r ∧ t = s.takeFault r) ∨
    (s.faulted = false ∧ s.wait = false ∧ ∃ w u, fetch s = .ok w ∧ decode w = .unknown u ∧ t = s.advance) ∨
    (s.faulted = false ∧ s.wait = false ∧ ∃ w i, fetch s = .ok w ∧ decode w = .instr i ∧ exec i s = .next t) := by
  unfold Sys2Proof.Machine.step engineStep at h
  cases hf : s.faulted with
  | true => simp [hf] at h; exact .inl ⟨rfl, h.symm⟩
  | false =>
    cases hw : s.wait with
    | true => simp [hf, hw] at h; exact .inr (.inl ⟨rfl, rfl, h.symm⟩)
    | false =>
      simp only [hf, hw, Bool.false_eq_true, if_false] at h
      cases hfetch : fetch s with
      | error r =>
        simp [hfetch] at h
        exact .inr (.inr (.inl ⟨rfl, rfl, r, rfl, h.symm⟩))
      | ok w =>
        simp only [hfetch, runWord] at h
        cases hd : decode w with
        | unknown u =>
          simp [hd, execUnknown, execute, State.commit] at h
          exact .inr (.inr (.inr (.inl ⟨rfl, rfl, w, u, rfl, hd, h.symm⟩)))
        | instr i =>
          simp only [hd] at h
          exact .inr (.inr (.inr (.inr ⟨rfl, rfl, w, i, rfl, hd, h⟩)))

end Sys2Proof.Machine
end

