-- ==== Sys2Proof/Laws/Exec.lean ====
section
/-!
SUPPORT. What each instruction's meaning answers, in terms of the shared operations: one equation for an instruction
that cannot fault, one for each outcome of one that can. Proofs about `exec` cite these and unfold nothing.
-/

namespace Sys2Proof.Machine

/-! ### Control flow -/

theorem exec_jp (nnn : Imm12) (s : State) : exec (.jp nnn) s = .next { s.advance with pc := zextImm nnn } := rfl

theorem exec_jpV0 (nnn : Imm12) (s : State) :
    exec (.jpV0 nnn) s = .next { s.advance with pc := zextImm nnn + zextByte (s.reg 0) } := rfl

theorem exec_seByte (x : Reg) (kk : Byte) (s : State) :
    exec (.seByte x kk) s = .next (s.advance.skipIf (s.reg x == kk)) := rfl

theorem exec_sneByte (x : Reg) (kk : Byte) (s : State) :
    exec (.sneByte x kk) s = .next (s.advance.skipIf (s.reg x != kk)) := rfl

theorem exec_seReg (x y : Reg) (s : State) :
    exec (.seReg x y) s = .next (s.advance.skipIf (s.reg x == s.reg y)) := rfl

theorem exec_sneReg (x y : Reg) (s : State) :
    exec (.sneReg x y) s = .next (s.advance.skipIf (s.reg x != s.reg y)) := rfl

theorem exec_call_room (nnn : Imm12) {s : State} (h : s.sp.val < 16) :
    exec (.call nnn) s = .next { s.advance with
      stack := s.stack.set s.sp.val (s.pc + 2) h, sp := ⟨s.sp.val + 1, by omega⟩, pc := zextImm nnn } := by
  show execCall nnn s = _
  unfold execCall
  exact execute_ok (by rw [State.pushPc_of_room (t := s.advance) h]; rfl)

theorem exec_call_full (nnn : Imm12) {s : State} (h : s.sp.val = 16) :
    exec (.call nnn) s = .next (s.takeFault ⟨.stackOverflow, 0⟩) := by
  show execCall nnn s = _
  unfold execCall
  exact execute_error (by rw [State.pushPc_full (t := s.advance) h])

theorem exec_ret_entry {s : State} (h : 0 < s.sp.val) :
    exec .ret s = .next { s.advance with
      sp := ⟨s.sp.val - 1, by omega⟩, pc := s.stack[s.sp.val - 1]'(by omega) } := by
  show execRet s = _
  unfold execRet
  exact execute_ok (State.popPc_of_entry (t := s.advance) h)

theorem exec_ret_empty {s : State} (h : s.sp.val = 0) : exec .ret s = .next (s.takeFault ⟨.stackUnderflow, 0⟩) := by
  show execRet s = _
  unfold execRet
  exact execute_error (State.popPc_empty (t := s.advance) h)

/-! ### Arithmetic and logic -/

theorem exec_ldByte (x : Reg) (kk : Byte) (s : State) : exec (.ldByte x kk) s = .next (s.advance.setReg x kk) := rfl

theorem exec_addByte (x : Reg) (kk : Byte) (s : State) :
    exec (.addByte x kk) s = .next (s.advance.setReg x (s.reg x + kk)) := rfl

theorem exec_ldReg (x y : Reg) (s : State) : exec (.ldReg x y) s = .next (s.advance.setReg x (s.reg y)) := rfl

theorem exec_orReg (x y : Reg) (s : State) :
    exec (.orReg x y) s = .next (s.advance.setReg x (s.reg x ||| s.reg y)) := rfl

theorem exec_andReg (x y : Reg) (s : State) :
    exec (.andReg x y) s = .next (s.advance.setReg x (s.reg x &&& s.reg y)) := rfl

theorem exec_xorReg (x y : Reg) (s : State) :
    exec (.xorReg x y) s = .next (s.advance.setReg x (s.reg x ^^^ s.reg y)) := rfl

theorem exec_addReg (x y : Reg) (s : State) :
    exec (.addReg x y) s =
      .next (s.advance.setResultThenFlag x (s.reg x + s.reg y) (carryOut (s.reg x) (s.reg y))) := rfl

theorem exec_subReg (x y : Reg) (s : State) :
    exec (.subReg x y) s =
      .next (s.advance.setFlagThenResult x (s.reg x - s.reg y) (strictlyAbove (s.reg x) (s.reg y))) := rfl

theorem exec_subnReg (x y : Reg) (s : State) :
    exec (.subnReg x y) s =
      .next (s.advance.setFlagThenResult x (s.reg y - s.reg x) (strictlyAbove (s.reg y) (s.reg x))) := rfl

theorem exec_shr (x : Reg) (s : State) :
    exec (.shr x) s = .next (s.advance.setFlagThenResult x (s.reg x >>> 1) (shiftedOutRight (s.reg x))) := rfl

theorem exec_shl (x : Reg) (s : State) :
    exec (.shl x) s = .next (s.advance.setFlagThenResult x (s.reg x <<< 1) (shiftedOutLeft (s.reg x))) := rfl

theorem exec_rnd (x : Reg) (kk : Byte) (s : State) :
    exec (.rnd x kk) s =
      .next { s.advance.setReg x (Config.randomByte s.draws &&& kk) with draws := s.draws + 1 } := rfl

/-! ### The index register and memory -/

theorem exec_ldI (nnn : Imm12) (s : State) : exec (.ldI nnn) s = .next { s.advance with i := zextImm nnn } := rfl

theorem exec_addIVx (x : Reg) (s : State) :
    exec (.addIVx x) s = .next { s.advance with i := s.i + zextByte (s.reg x) } := rfl

theorem exec_ldFVx (x : Reg) (s : State) :
    exec (.ldFVx x) s = .next { s.advance with i := glyphAddress (s.reg x) } := rfl

theorem exec_ldBVx_in (x : Reg) {s : State} (h : s.i.toNat + 3 ≤ Config.memSize) :
    exec (.ldBVx x) s =
      .next { s.advance with mem := Memory.writeBytes s.mem s.i.toNat (bcdDigits (s.reg x)) } := by
  show execLdBVx x s = _
  unfold execLdBVx
  exact execute_ok (by rw [State.advance_mem, State.advance_i, State.reg_advance, writeSpan_in (bytes := bcdDigits _) h]; rfl)

theorem exec_ldBVx_out (x : Reg) {s : State} (h : s.i.toNat + 3 > Config.memSize) :
    exec (.ldBVx x) s =
      .next (s.takeFault ⟨.memRange, BitVec.ofNat 16 (max s.i.toNat (Config.addrMax + 1))⟩) := by
  show execLdBVx x s = _
  unfold execLdBVx
  exact execute_error (by
    rw [State.advance_mem, State.advance_i, writeSpan_out (by
      simp only [bcdDigits, List.length_cons, List.length_nil, Config.memSize, Config.addrMax] at *; omega)])

theorem exec_ldMemVx_in (x : Reg) {s : State} (h : s.i.toNat + (x.val + 1) ≤ Config.memSize) :
    exec (.ldMemVx x) s = .next { s.advance with mem := Memory.writeBytes s.mem s.i.toNat (s.block x) } := by
  show execLdMemVx x s = _
  unfold execLdMemVx
  exact execute_ok (by
    have hb : s.advance.block x = s.block x := rfl
    rw [State.advance_mem, State.advance_i, hb, writeSpan_in (by rw [State.block_length]; exact h)]; rfl)

theorem exec_ldMemVx_out (x : Reg) {s : State} (h : s.i.toNat + (x.val + 1) > Config.memSize) :
    exec (.ldMemVx x) s =
      .next (s.takeFault ⟨.memRange, BitVec.ofNat 16 (max s.i.toNat (Config.addrMax + 1))⟩) := by
  show execLdMemVx x s = _
  unfold execLdMemVx
  exact execute_error (by
    rw [State.advance_mem, State.advance_i, writeSpan_out (by
      rw [State.block_length]; simp only [Config.memSize, Config.addrMax] at *; omega)])

theorem exec_ldVxMem_in (x : Reg) {s : State} (h : s.i.toNat + (x.val + 1) ≤ Config.memSize) :
    exec (.ldVxMem x) s =
      .next { s.advance with v := loadBlock s.v (Memory.readBytes s.mem s.i.toNat (x.val + 1)) } := by
  show execLdVxMem x s = _
  unfold execLdVxMem
  exact execute_ok (by rw [State.advance_mem, State.advance_i, readSpan_in h]; rfl)

theorem exec_ldVxMem_out (x : Reg) {s : State} (h : s.i.toNat + (x.val + 1) > Config.memSize) :
    exec (.ldVxMem x) s =
      .next (s.takeFault ⟨.memRange, BitVec.ofNat 16 (max s.i.toNat (Config.addrMax + 1))⟩) := by
  show execLdVxMem x s = _
  unfold execLdVxMem
  exact execute_error (by
    rw [State.advance_mem, State.advance_i, readSpan_out (by
      simp only [Config.memSize, Config.addrMax] at *; omega)])

/-! ### The display -/

theorem exec_cls (s : State) : exec .cls s = .next { s.advance with disp := Display.clear, dirty := true } := rfl

/-- What DRW has drawn when it starts from the state `s` with the sprite bytes `rows`. -/
def State.drawn (s : State) (x y : Reg) (rows : List Byte) : Raster :=
  plotRows s.disp (s.reg x) (s.reg y) 0 rows { disp := s.disp, collision := false }

theorem exec_drw_rows (x y : Reg) {n : Fin 16} {s : State} {rows : List Byte} (h : s.spriteRows n = .ok rows) :
    exec (.drw x y n) s = .next { s.advance.setReg vf (flagByte (s.drawn x y rows).collision) with
      disp := (s.drawn x y rows).disp, dirty := true } := by
  show execDrw x y n s = _
  unfold execDrw
  exact execute_ok (by
    have hr : s.advance.spriteRows n = .ok rows := h
    rw [hr]; rfl)

/-- The sprite bytes, when n = 0 or the span lies inside memory. -/
theorem State.spriteRows_in {n : Fin 16} {s : State} (h : n.val = 0 ∨ s.i.toNat + n.val ≤ Config.memSize) :
    s.spriteRows n = .ok (Memory.readBytes s.mem s.i.toNat n.val) := by
  by_cases hn : n.val = 0
  · simp [State.spriteRows, hn, Memory.readBytes]
  · rw [State.spriteRows, if_neg hn, readSpan_in (h.resolve_left hn)]

theorem exec_drw_out (x y : Reg) {n : Fin 16} {s : State} (hn : n.val ≥ 1)
    (h : s.i.toNat + n.val > Config.memSize) :
    exec (.drw x y n) s =
      .next (s.takeFault ⟨.memRange, BitVec.ofNat 16 (max s.i.toNat (Config.addrMax + 1))⟩) := by
  show execDrw x y n s = _
  unfold execDrw
  exact execute_error (by
    have hn' : ¬ n.val = 0 := by omega
    have hr : s.advance.spriteRows n = .error ⟨.memRange, BitVec.ofNat 16 (max s.i.toNat (Config.addrMax + 1))⟩ := by
      rw [State.spriteRows, if_neg hn', State.advance_mem, State.advance_i, readSpan_out (by
        simp only [Config.memSize, Config.addrMax] at *; omega)]
    rw [hr])

/-! ### Keys and timers -/

theorem exec_skp_key {x : Reg} {s : State} (h : (s.reg x).toNat < 16) :
    exec (.skp x) s = .next (s.advance.skipIf (s.pressed ⟨(s.reg x).toNat, h⟩)) := by
  show execSkp x s = _
  unfold execSkp
  exact execute_ok (by rw [State.reg_advance, keyIndex_in h]; rfl)

theorem exec_skp_out {x : Reg} {s : State} (h : ¬ (s.reg x).toNat < 16) :
    exec (.skp x) s = .next (s.takeFault ⟨.keyRange, zextByte (s.reg x)⟩) := by
  show execSkp x s = _
  unfold execSkp
  exact execute_error (by rw [State.reg_advance, keyIndex_out h])

theorem exec_sknp_key {x : Reg} {s : State} (h : (s.reg x).toNat < 16) :
    exec (.sknp x) s = .next (s.advance.skipIf (!s.pressed ⟨(s.reg x).toNat, h⟩)) := by
  show execSknp x s = _
  unfold execSknp
  exact execute_ok (by rw [State.reg_advance, keyIndex_in h]; rfl)

theorem exec_sknp_out {x : Reg} {s : State} (h : ¬ (s.reg x).toNat < 16) :
    exec (.sknp x) s = .next (s.takeFault ⟨.keyRange, zextByte (s.reg x)⟩) := by
  show execSknp x s = _
  unfold execSknp
  exact execute_error (by rw [State.reg_advance, keyIndex_out h])

theorem exec_ldVxDT (x : Reg) (s : State) : exec (.ldVxDT x) s = .next (s.advance.setReg x s.dt) := rfl

theorem exec_ldVxK_key (x : Reg) {s : State} (h : s.lastKeyValid = true) :
    exec (.ldVxK x) s =
      .next { s.advance.setReg x (keyByte s.lastKeyVal) with lastKeyValid := false } := by
  show execLdVxK x s = _
  unfold execLdVxK
  exact execute_ok (by simp [h])

theorem exec_ldVxK_none (x : Reg) {s : State} (h : s.lastKeyValid = false) :
    exec (.ldVxK x) s = .next { s with wait := true, waitX := x } := by
  show execLdVxK x s = _
  unfold execLdVxK
  exact execute_ok (by simp [h, State.advance])

theorem exec_ldDTVx (x : Reg) (s : State) : exec (.ldDTVx x) s = .next { s.advance with dt := s.reg x } := rfl

theorem exec_ldSTVx (x : Reg) (s : State) : exec (.ldSTVx x) s = .next { s.advance with st := s.reg x } := rfl

end Sys2Proof.Machine
end

