-- ==== Sys2Proof/Laws/Operations.lean ====
section
/-!
SUPPORT. The host's operations: what RESET leaves for any FONT, and one equation for each operation.
-/

namespace Sys2Proof.Machine

/-! ### RESET -/

/-- After RESET the first 80 bytes of memory are FONT and the others 0, whatever FONT is. -/
theorem State.resetOf_read (font : Font) (a : Nat) :
    Memory.read (State.resetOf font).mem a = if a < 80 then font.toList.getD a 0 else 0 := by
  have hlen : font.toList.length = 80 := Vector.length_toList
  show Memory.read (Memory.writeBytes [] 0 font.toList) a = _
  rw [Memory.read_writeBytes, hlen]
  by_cases h : a < 80
  · rw [if_pos ⟨Nat.zero_le a, by omega⟩, if_pos h, Nat.sub_zero]
  · rw [if_neg (fun hc => h (by omega)), if_neg h]
    have hd : Config.font.toList.length = 80 := Vector.length_toList
    show Config.font.toList.getD a 0 = 0
    rw [List.getD_eq_getElem?_getD, List.getElem?_eq_none (by omega)]
    rfl

/-- Memory after RESET is in canonical form, whatever FONT is. -/
theorem State.resetOf_mem_wf (font : Font) : Memory.wf (State.resetOf font).mem := by
  have hlen : font.toList.length = 80 := Vector.length_toList
  exact Memory.writeBytes_wf _ Memory.reset_wf (by rw [hlen]; decide)

/-- With the default FONT an engine is reset to `State.reset`. -/
@[simp] theorem State.resetOf_default : State.resetOf Config.font = State.reset := by
  have h : Memory.writeBytes State.reset.mem 0 Config.font.toList = State.reset.mem := by decide
  unfold State.resetOf
  rw [h]

/-- The machine behind the host's interface is the engine with the default FONT. -/
theorem engineWith_default : engineWith Config.font = Sys2Proof.core := by
  unfold engineWith Sys2Proof.core
  rw [State.resetOf_default]

/-! ### The operations -/

@[simp] theorem Operation.perform_reset (font : Font) (s : State) :
    Operation.reset.perform font s = .next (s.resetWith font) := rfl

@[simp] theorem Operation.perform_load (font : Font) (bytes : List Byte) (s : State) :
    (Operation.load bytes).perform font s = .next (s.load bytes) := rfl

@[simp] theorem Operation.perform_step (font : Font) (s : State) :
    Operation.step.perform font s = Sys2Proof.Machine.step s := rfl

@[simp] theorem Operation.perform_tick (font : Font) (s : State) :
    Operation.tick.perform font s = .next s.tick := rfl

@[simp] theorem Operation.perform_setKey (font : Font) (k : Key) (b : Bool) (s : State) :
    (Operation.setKey k b).perform font s = .next (s.setKey k b) := rfl

@[simp] theorem Operation.perform_setLastKey (font : Font) (k : Key) (s : State) :
    (Operation.setLastKey k).perform font s = .next (s.setLastKey k) := rfl

@[simp] theorem Operation.perform_clearLastKey (font : Font) (s : State) :
    Operation.clearLastKey.perform font s = .next s.clearLastKey := rfl

@[simp] theorem Operation.perform_ackDirty (font : Font) (s : State) :
    Operation.ackDirty.perform font s = .next s.ackDirty := rfl

/-- A program that fits is loaded; one that does not changes nothing. -/
theorem State.load_fits {bytes : List Byte} (s : State) (h : bytes.length ≤ Config.progMax) :
    s.load bytes =
      { s with mem := Memory.writeBytes s.mem Config.progBase bytes, disp := Display.clear, dirty := true } := by
  unfold State.load
  rw [if_neg (by omega)]

theorem State.load_tooLarge {bytes : List Byte} (s : State) (h : bytes.length > Config.progMax) :
    s.load bytes = s := by
  unfold State.load
  rw [if_pos h]

end Sys2Proof.Machine
end

