-- ==== Sys2Proof/Laws/PerInstr.lean ====
section
/-!
SUPPORT. Statements about instructions as syntax, one lemma for each constructor (LAWS.json, "per_instruction").
-/

namespace Sys2Proof.Laws

theorem byte_lt (kk : Byte) : kk.toNat < 256 := kk.isLt

theorem imm_lt (nnn : Imm12) : nnn.toNat < 4096 := nnn.isLt

end Sys2Proof.Laws

namespace Sys2Proof.Laws.FieldsFit

/-- Every operand field of the instruction fits its bits (30_encoding.md R49). -/
def Statement (i : Instr) : Prop := i.wellFormed = true


theorem cls : Statement .cls := by
  simp [Statement, Instr.wellFormed, Fields.wellFormed, Instr.fields]

theorem ret : Statement .ret := by
  simp [Statement, Instr.wellFormed, Fields.wellFormed, Instr.fields]

theorem jp (nnn : Imm12) : Statement (.jp nnn) := by
  simp [Statement, Instr.wellFormed, Fields.wellFormed, Instr.fields, imm_lt nnn]

theorem call (nnn : Imm12) : Statement (.call nnn) := by
  simp [Statement, Instr.wellFormed, Fields.wellFormed, Instr.fields, imm_lt nnn]

theorem seByte (x : Reg) (kk : Byte) : Statement (.seByte x kk) := by
  simp [Statement, Instr.wellFormed, Fields.wellFormed, Instr.fields, byte_lt kk]

theorem sneByte (x : Reg) (kk : Byte) : Statement (.sneByte x kk) := by
  simp [Statement, Instr.wellFormed, Fields.wellFormed, Instr.fields, byte_lt kk]

theorem seReg (x y : Reg) : Statement (.seReg x y) := by
  simp [Statement, Instr.wellFormed, Fields.wellFormed, Instr.fields]

theorem ldByte (x : Reg) (kk : Byte) : Statement (.ldByte x kk) := by
  simp [Statement, Instr.wellFormed, Fields.wellFormed, Instr.fields, byte_lt kk]

theorem addByte (x : Reg) (kk : Byte) : Statement (.addByte x kk) := by
  simp [Statement, Instr.wellFormed, Fields.wellFormed, Instr.fields, byte_lt kk]

theorem ldReg (x y : Reg) : Statement (.ldReg x y) := by
  simp [Statement, Instr.wellFormed, Fields.wellFormed, Instr.fields]

theorem orReg (x y : Reg) : Statement (.orReg x y) := by
  simp [Statement, Instr.wellFormed, Fields.wellFormed, Instr.fields]

theorem andReg (x y : Reg) : Statement (.andReg x y) := by
  simp [Statement, Instr.wellFormed, Fields.wellFormed, Instr.fields]

theorem xorReg (x y : Reg) : Statement (.xorReg x y) := by
  simp [Statement, Instr.wellFormed, Fields.wellFormed, Instr.fields]

theorem addReg (x y : Reg) : Statement (.addReg x y) := by
  simp [Statement, Instr.wellFormed, Fields.wellFormed, Instr.fields]

theorem subReg (x y : Reg) : Statement (.subReg x y) := by
  simp [Statement, Instr.wellFormed, Fields.wellFormed, Instr.fields]

theorem shr (x : Reg) : Statement (.shr x) := by
  simp [Statement, Instr.wellFormed, Fields.wellFormed, Instr.fields]

theorem subnReg (x y : Reg) : Statement (.subnReg x y) := by
  simp [Statement, Instr.wellFormed, Fields.wellFormed, Instr.fields]

theorem shl (x : Reg) : Statement (.shl x) := by
  simp [Statement, Instr.wellFormed, Fields.wellFormed, Instr.fields]

theorem sneReg (x y : Reg) : Statement (.sneReg x y) := by
  simp [Statement, Instr.wellFormed, Fields.wellFormed, Instr.fields]

theorem ldI (nnn : Imm12) : Statement (.ldI nnn) := by
  simp [Statement, Instr.wellFormed, Fields.wellFormed, Instr.fields, imm_lt nnn]

theorem jpV0 (nnn : Imm12) : Statement (.jpV0 nnn) := by
  simp [Statement, Instr.wellFormed, Fields.wellFormed, Instr.fields, imm_lt nnn]

theorem rnd (x : Reg) (kk : Byte) : Statement (.rnd x kk) := by
  simp [Statement, Instr.wellFormed, Fields.wellFormed, Instr.fields, byte_lt kk]

theorem drw (x y : Reg) (n : Fin 16) : Statement (.drw x y n) := by
  simp [Statement, Instr.wellFormed, Fields.wellFormed, Instr.fields]

theorem skp (x : Reg) : Statement (.skp x) := by
  simp [Statement, Instr.wellFormed, Fields.wellFormed, Instr.fields]

theorem sknp (x : Reg) : Statement (.sknp x) := by
  simp [Statement, Instr.wellFormed, Fields.wellFormed, Instr.fields]

theorem ldVxDT (x : Reg) : Statement (.ldVxDT x) := by
  simp [Statement, Instr.wellFormed, Fields.wellFormed, Instr.fields]

theorem ldVxK (x : Reg) : Statement (.ldVxK x) := by
  simp [Statement, Instr.wellFormed, Fields.wellFormed, Instr.fields]

theorem ldDTVx (x : Reg) : Statement (.ldDTVx x) := by
  simp [Statement, Instr.wellFormed, Fields.wellFormed, Instr.fields]

theorem ldSTVx (x : Reg) : Statement (.ldSTVx x) := by
  simp [Statement, Instr.wellFormed, Fields.wellFormed, Instr.fields]

theorem addIVx (x : Reg) : Statement (.addIVx x) := by
  simp [Statement, Instr.wellFormed, Fields.wellFormed, Instr.fields]

theorem ldFVx (x : Reg) : Statement (.ldFVx x) := by
  simp [Statement, Instr.wellFormed, Fields.wellFormed, Instr.fields]

theorem ldBVx (x : Reg) : Statement (.ldBVx x) := by
  simp [Statement, Instr.wellFormed, Fields.wellFormed, Instr.fields]

theorem ldMemVx (x : Reg) : Statement (.ldMemVx x) := by
  simp [Statement, Instr.wellFormed, Fields.wellFormed, Instr.fields]

theorem ldVxMem (x : Reg) : Statement (.ldVxMem x) := by
  simp [Statement, Instr.wellFormed, Fields.wellFormed, Instr.fields]

end Sys2Proof.Laws.FieldsFit

namespace Sys2Proof.Laws.RowOfTable

/-- The instruction's row is one of the 34 rows of the opcode table (30_encoding.md R51). -/
def Statement (i : Instr) : Prop := i.row ∈ opcodeTable


theorem cls : Statement .cls :=
  List.mem_map.mpr ⟨.cls, by simp [Instr.samples], rfl⟩

theorem ret : Statement .ret :=
  List.mem_map.mpr ⟨.ret, by simp [Instr.samples], rfl⟩

theorem jp (nnn : Imm12) : Statement (.jp nnn) :=
  List.mem_map.mpr ⟨(.jp 0), by simp [Instr.samples], rfl⟩

theorem call (nnn : Imm12) : Statement (.call nnn) :=
  List.mem_map.mpr ⟨(.call 0), by simp [Instr.samples], rfl⟩

theorem seByte (x : Reg) (kk : Byte) : Statement (.seByte x kk) :=
  List.mem_map.mpr ⟨(.seByte 0 0), by simp [Instr.samples], rfl⟩

theorem sneByte (x : Reg) (kk : Byte) : Statement (.sneByte x kk) :=
  List.mem_map.mpr ⟨(.sneByte 0 0), by simp [Instr.samples], rfl⟩

theorem seReg (x y : Reg) : Statement (.seReg x y) :=
  List.mem_map.mpr ⟨(.seReg 0 0), by simp [Instr.samples], rfl⟩

theorem ldByte (x : Reg) (kk : Byte) : Statement (.ldByte x kk) :=
  List.mem_map.mpr ⟨(.ldByte 0 0), by simp [Instr.samples], rfl⟩

theorem addByte (x : Reg) (kk : Byte) : Statement (.addByte x kk) :=
  List.mem_map.mpr ⟨(.addByte 0 0), by simp [Instr.samples], rfl⟩

theorem ldReg (x y : Reg) : Statement (.ldReg x y) :=
  List.mem_map.mpr ⟨(.ldReg 0 0), by simp [Instr.samples], rfl⟩

theorem orReg (x y : Reg) : Statement (.orReg x y) :=
  List.mem_map.mpr ⟨(.orReg 0 0), by simp [Instr.samples], rfl⟩

theorem andReg (x y : Reg) : Statement (.andReg x y) :=
  List.mem_map.mpr ⟨(.andReg 0 0), by simp [Instr.samples], rfl⟩

theorem xorReg (x y : Reg) : Statement (.xorReg x y) :=
  List.mem_map.mpr ⟨(.xorReg 0 0), by simp [Instr.samples], rfl⟩

theorem addReg (x y : Reg) : Statement (.addReg x y) :=
  List.mem_map.mpr ⟨(.addReg 0 0), by simp [Instr.samples], rfl⟩

theorem subReg (x y : Reg) : Statement (.subReg x y) :=
  List.mem_map.mpr ⟨(.subReg 0 0), by simp [Instr.samples], rfl⟩

theorem shr (x : Reg) : Statement (.shr x) :=
  List.mem_map.mpr ⟨(.shr 0), by simp [Instr.samples], rfl⟩

theorem subnReg (x y : Reg) : Statement (.subnReg x y) :=
  List.mem_map.mpr ⟨(.subnReg 0 0), by simp [Instr.samples], rfl⟩

theorem shl (x : Reg) : Statement (.shl x) :=
  List.mem_map.mpr ⟨(.shl 0), by simp [Instr.samples], rfl⟩

theorem sneReg (x y : Reg) : Statement (.sneReg x y) :=
  List.mem_map.mpr ⟨(.sneReg 0 0), by simp [Instr.samples], rfl⟩

theorem ldI (nnn : Imm12) : Statement (.ldI nnn) :=
  List.mem_map.mpr ⟨(.ldI 0), by simp [Instr.samples], rfl⟩

theorem jpV0 (nnn : Imm12) : Statement (.jpV0 nnn) :=
  List.mem_map.mpr ⟨(.jpV0 0), by simp [Instr.samples], rfl⟩

theorem rnd (x : Reg) (kk : Byte) : Statement (.rnd x kk) :=
  List.mem_map.mpr ⟨(.rnd 0 0), by simp [Instr.samples], rfl⟩

theorem drw (x y : Reg) (n : Fin 16) : Statement (.drw x y n) :=
  List.mem_map.mpr ⟨(.drw 0 0 0), by simp [Instr.samples], rfl⟩

theorem skp (x : Reg) : Statement (.skp x) :=
  List.mem_map.mpr ⟨(.skp 0), by simp [Instr.samples], rfl⟩

theorem sknp (x : Reg) : Statement (.sknp x) :=
  List.mem_map.mpr ⟨(.sknp 0), by simp [Instr.samples], rfl⟩

theorem ldVxDT (x : Reg) : Statement (.ldVxDT x) :=
  List.mem_map.mpr ⟨(.ldVxDT 0), by simp [Instr.samples], rfl⟩

theorem ldVxK (x : Reg) : Statement (.ldVxK x) :=
  List.mem_map.mpr ⟨(.ldVxK 0), by simp [Instr.samples], rfl⟩

theorem ldDTVx (x : Reg) : Statement (.ldDTVx x) :=
  List.mem_map.mpr ⟨(.ldDTVx 0), by simp [Instr.samples], rfl⟩

theorem ldSTVx (x : Reg) : Statement (.ldSTVx x) :=
  List.mem_map.mpr ⟨(.ldSTVx 0), by simp [Instr.samples], rfl⟩

theorem addIVx (x : Reg) : Statement (.addIVx x) :=
  List.mem_map.mpr ⟨(.addIVx 0), by simp [Instr.samples], rfl⟩

theorem ldFVx (x : Reg) : Statement (.ldFVx x) :=
  List.mem_map.mpr ⟨(.ldFVx 0), by simp [Instr.samples], rfl⟩

theorem ldBVx (x : Reg) : Statement (.ldBVx x) :=
  List.mem_map.mpr ⟨(.ldBVx 0), by simp [Instr.samples], rfl⟩

theorem ldMemVx (x : Reg) : Statement (.ldMemVx x) :=
  List.mem_map.mpr ⟨(.ldMemVx 0), by simp [Instr.samples], rfl⟩

theorem ldVxMem (x : Reg) : Statement (.ldVxMem x) :=
  List.mem_map.mpr ⟨(.ldVxMem 0), by simp [Instr.samples], rfl⟩

end Sys2Proof.Laws.RowOfTable
end

