-- ==== Sys2Proof/Tests/Slice0.lean ====
section
/-!
SUPPORT. The model's own tests. The expected values are those of spec/95_test_vectors.md (its numbers W1 to W8, E1 to
H7 are named in the comments) or are written out by hand from the encodings of spec/30_encoding.md; none is the model's
own answer. Last come the witnesses: for each statement with hypotheses, a state and operands that meet them.
-/

namespace Sys2Proof.Tests

open Sys2Proof Sys2Proof.Machine

/-! ### Small states -/

/-- The state after RESET with some registers set. -/
def regs (rs : List (Reg × Byte)) : State := rs.foldl (fun s r => s.setReg r.1 r.2) State.reset

/-- A state with I set. -/
def atI (i : Word) (s : State) : State := { s with i := i }

/-- A state with bytes in memory from an address up. -/
def bytesAt (a : Nat) (bs : List Byte) (s : State) : State := { s with mem := Memory.writeBytes s.mem a bs }

/-- The state after one STEP. -/
def stepped (s : State) : Option State :=
  match Sys2Proof.Machine.step s with
  | .next t => some t
  | .fault _ => none
  | .refused _ => none

/-- The state after one STEP over a word put at PC. -/
def ran (w : Word) (s : State) : Option State := stepped (placeWord s w)

/-- The code, the information and the address of a recorded fault. -/
def record (s : State) : Bool × FaultCode × Word × Word × Word :=
  (s.faulted, s.faultCode, s.faultInfo, s.faultPc, s.pc)

/-! ### Decoding: words written out from the encodings of 30_encoding.md R51 -/

/-- Family 0, written out nibble by nibble: 0-0-E-0 and 0-0-E-E. -/
theorem test_decode_family0 : decode 0b0000000011100000 = .instr .cls ∧ decode 0b0000000011101110 = .instr .ret := by
  decide

/-- Families 1, 2, A and B: the family nibble, then nnn in bits 11:0. -/
theorem test_decode_nnn :
    decode 0b0001001101000101 = .instr (.jp 0x345) ∧ decode 0b0010001000010000 = .instr (.call 0x210) ∧
    decode 0b1010001100000000 = .instr (.ldI 0x300) ∧ decode 0b1011111111111110 = .instr (.jpV0 0xFFE) := by
  decide

/-- Families 3, 4, 6, 7 and C: the family nibble, x in bits 11:8, kk in bits 7:0. -/
theorem test_decode_xkk :
    decode 0b0011001100010000 = .instr (.seByte 3 0x10) ∧ decode 0b0100001100010001 = .instr (.sneByte 3 0x11) ∧
    decode 0b0110010100101010 = .instr (.ldByte 5 0x2A) ∧ decode 0b0111111100000101 = .instr (.addByte 15 0x05) ∧
    decode 0b1100001000001111 = .instr (.rnd 2 0x0F) := by
  decide

/-- Families 5, 9 and D: the family nibble, x in bits 11:8, y in bits 7:4, and the low nibble. -/
theorem test_decode_xy :
    decode 0b0101000100100000 = .instr (.seReg 1 2) ∧ decode 0b1001001000010000 = .instr (.sneReg 2 1) ∧
    decode 0b1101101010110001 = .instr (.drw 10 11 1) := by
  decide

/-- Family 8: x in bits 11:8, y in bits 7:4, the operation in bits 3:0; 6 and E ignore y (vector E10). -/
theorem test_decode_family8 :
    decode 0b1000000100100000 = .instr (.ldReg 1 2) ∧ decode 0b1000000100100001 = .instr (.orReg 1 2) ∧
    decode 0b1000000100100010 = .instr (.andReg 1 2) ∧ decode 0b1000000100100011 = .instr (.xorReg 1 2) ∧
    decode 0b1000111100100100 = .instr (.addReg 15 2) ∧ decode 0b1000000111110101 = .instr (.subReg 1 15) ∧
    decode 0b1000000100100110 = .instr (.shr 1) ∧ decode 0b1000000100100111 = .instr (.subnReg 1 2) ∧
    decode 0b1000000111111110 = .instr (.shl 1) := by
  decide

/-- Families E and F: x in bits 11:8, the operation in bits 7:0. -/
theorem test_decode_families_EF :
    decode 0b1110000110011110 = .instr (.skp 1) ∧ decode 0b1110000110100001 = .instr (.sknp 1) ∧
    decode 0b1111010000000111 = .instr (.ldVxDT 4) ∧ decode 0b1111001100001010 = .instr (.ldVxK 3) ∧
    decode 0b1111001100010101 = .instr (.ldDTVx 3) ∧ decode 0b1111001000011000 = .instr (.ldSTVx 2) ∧
    decode 0b1111000100011110 = .instr (.addIVx 1) ∧ decode 0b1111000100101001 = .instr (.ldFVx 1) ∧
    decode 0b1111011100110011 = .instr (.ldBVx 7) ∧ decode 0b1111000101010101 = .instr (.ldMemVx 1) ∧
    decode 0b1111001001100101 = .instr (.ldVxMem 2) := by
  decide

/-- The UNKNOWN words of vectors E1 to E5, one of family 9 and the lowest word. -/
theorem test_decode_unknown :
    decode 0x0123 = .unknown 0x0123 ∧ decode 0x5121 = .unknown 0x5121 ∧ decode 0xE199 = .unknown 0xE199 ∧
    decode 0x8128 = .unknown 0x8128 ∧ decode 0xF1FF = .unknown 0xF1FF ∧ decode 0x9121 = .unknown 0x9121 ∧
    decode 0x0000 = .unknown 0x0000 := by
  decide

/-- Two bytes, high byte first, and the rest of the list; one byte is no word (30_encoding.md R57). -/
theorem test_decodeBytes :
    decodeBytes [0x12, 0x34, 0x56] = .ok (.jp 0x234, [0x56]) ∧ decodeBytes [0x12] = .error (.truncated [0x12]) ∧
    decodeBytes [] = .error (.truncated []) ∧ decodeBytes [0x81, 0x28] = .error (.unknown 0x8128) :=
  ⟨rfl, rfl, rfl, rfl⟩

/-- The table has 34 rows, and no two of them agree on the bits both fix. -/
theorem test_opcodeTable :
    opcodeTable.length = 34 ∧
    opcodeTable.Pairwise (fun r q => r.fixed &&& q.mask ≠ q.fixed &&& r.mask) := by
  decide

/-- A word of the table, and one that is no instruction. -/
theorem test_decodeTableWord :
    decodeTableWord 16 0xD013 = some (.drw 0 1 3) ∧ decodeTableWord 16 0x00EE = some .ret ∧
    decodeTableWord 16 0x8128 = none := by
  decide

/-- The encoder on words written out by hand. -/
theorem test_encode :
    encode (.drw 10 11 1) = 0xDAB1 ∧ encode (.addReg 15 2) = 0x8F24 ∧ encode (.jpV0 0xFFF) = 0xBFFF ∧
    encodeBytes (.ldBVx 7) = [0xF7, 0x33] := by
  decide

/-! ### Well-formedness: each check refuses a field that is one too large -/

theorem test_wellFormed_largest : Fields.wellFormed { x := 15, y := 15, n := 15, kk := 255, nnn := 4095 } = true := by
  decide

theorem test_illFormed_x : Fields.wellFormed { x := 16 } = false := by decide

theorem test_illFormed_y : Fields.wellFormed { y := 16 } = false := by decide

theorem test_illFormed_n : Fields.wellFormed { n := 16 } = false := by decide

theorem test_illFormed_kk : Fields.wellFormed { kk := 256 } = false := by decide

theorem test_illFormed_nnn : Fields.wellFormed { nnn := 4096 } = false := by decide

/-! ### The STEP operation -/

/-- E1: an UNKNOWN word only moves PC. -/
theorem test_unknown_step : (ran 0x0123 State.reset).map (·.pc) = some 0x202 := by decide

/-- E7: a fetch at 0xFFF. -/
theorem test_fetch_fault :
    (stepped { State.reset with pc := 0xFFF }).map record = some (true, .fetchRange, 0x1000, 0xFFF, 0xFFF) := by
  decide

/-- E8: an odd PC fetches normally. -/
theorem test_odd_pc :
    (stepped (bytesAt 0x201 [0x63, 0x07] { State.reset with pc := 0x201 })).map (fun t => (t.reg 3, t.pc)) =
      some (0x07, 0x203) := by
  decide

/-- The word the host's check places is the one the next step runs, also from a faulted state past memory. -/
theorem test_withFetchWord :
    (stepped (State.reset.withFetchWord 16 0x6A5C)).map (·.reg 10) = some 0x5C ∧
    (stepped (State.withFetchWord { State.reset with pc := 0x1000, faulted := true } 16 0x6A5C)).map (·.reg 10) =
      some 0x5C := by
  decide

/-! ### Control flow -/

/-- F1 -/
theorem test_jp : (ran 0x1345 State.reset).map (·.pc) = some 0x345 := by decide

/-- F2 -/
theorem test_call :
    (ran 0x2210 { State.reset with pc := 0x204 }).map (fun t => (t.stack[0], t.sp.val, t.pc)) =
      some (0x206, 1, 0x210) := by
  decide

/-- F3 -/
theorem test_call_overflow :
    (ran 0x2210 { State.reset with sp := 16 }).map record = some (true, .stackOverflow, 0, 0x200, 0x200) := by
  decide

/-- F5 -/
theorem test_ret :
    (ran 0x00EE { State.reset with sp := 2, stack := State.reset.stack.set 1 0x456 }).map
      (fun t => (t.sp.val, t.pc, t.stack[1])) = some (1, 0x456, 0x456) := by
  decide

/-- F4 -/
theorem test_ret_underflow :
    (ran 0x00EE State.reset).map record = some (true, .stackUnderflow, 0, 0x200, 0x200) := by
  decide

/-- F6, F7 -/
theorem test_seByte :
    (ran 0x3310 (regs [(3, 0x10)])).map (·.pc) = some 0x204 ∧
    (ran 0x3310 (regs [(3, 0x11)])).map (·.pc) = some 0x202 := by
  decide

/-- F8 -/
theorem test_sneByte : (ran 0x4310 (regs [(3, 0x11)])).map (·.pc) = some 0x204 := by decide

/-- F9 -/
theorem test_seReg : (ran 0x5120 (regs [(1, 7), (2, 7)])).map (·.pc) = some 0x204 := by decide

/-- F11, F12 -/
theorem test_sneReg :
    (ran 0x9120 (regs [(1, 7), (2, 8)])).map (·.pc) = some 0x204 ∧
    (ran 0x9110 (regs [(1, 7)])).map (·.pc) = some 0x202 := by
  decide

/-- F14 -/
theorem test_jpV0 : (ran 0xBFFF (regs [(0, 0xFF)])).map (·.pc) = some 0x10FE := by decide

/-! ### Arithmetic and logic -/

/-- A1 -/
theorem test_ldByte : (ran 0x652A State.reset).map (·.reg 5) = some 0x2A := by decide

/-- A2 -/
theorem test_addByte : (ran 0x7102 (regs [(1, 0xFF)])).map (fun t => (t.reg 1, t.reg 15)) = some (1, 0) := by decide

/-- A5 -/
theorem test_ldReg : (ran 0x8120 (regs [(2, 0x33)])).map (·.reg 1) = some 0x33 := by decide

/-- A6 -/
theorem test_orReg :
    (ran 0x8121 (regs [(1, 0x0F), (2, 0xF0), (15, 7)])).map (fun t => (t.reg 1, t.reg 15)) = some (0xFF, 7) := by
  decide

/-- A7 -/
theorem test_andReg : (ran 0x8122 (regs [(1, 0x3C), (2, 0x0F)])).map (·.reg 1) = some 0x0C := by decide

/-- A8 -/
theorem test_xorReg : (ran 0x8123 (regs [(1, 0x3C), (2, 0x0F)])).map (·.reg 1) = some 0x33 := by decide

/-- A14: y = F -/
theorem test_addReg :
    (ran 0x81F4 (regs [(1, 0xF0), (15, 0x20)])).map (fun t => (t.reg 1, t.reg 15)) = some (0x10, 1) := by
  decide

/-- A12: x = F, the carry is left -/
theorem test_addReg_flag_last : (ran 0x8F24 (regs [(15, 0xFF), (2, 2)])).map (·.reg 15) = some 1 := by decide

/-- A15 -/
theorem test_subReg :
    (ran 0x8125 (regs [(1, 3), (2, 5)])).map (fun t => (t.reg 1, t.reg 15)) = some (0xFE, 0) := by
  decide

/-- A16: x = F, the difference is left -/
theorem test_subReg_result_last : (ran 0x8F15 (regs [(15, 5), (1, 3)])).map (·.reg 15) = some 2 := by decide

/-- A18 -/
theorem test_shr : (ran 0x8106 (regs [(1, 5)])).map (fun t => (t.reg 1, t.reg 15)) = some (2, 1) := by decide

/-- A20: x = F -/
theorem test_shr_result_last : (ran 0x8F06 (regs [(15, 0x81)])).map (·.reg 15) = some 0x40 := by decide

/-- A22 -/
theorem test_subnReg :
    (ran 0x8127 (regs [(1, 5), (2, 3)])).map (fun t => (t.reg 1, t.reg 15)) = some (0xFE, 0) := by
  decide

/-- A24: x = F -/
theorem test_subnReg_result_last : (ran 0x8F27 (regs [(15, 3), (2, 5)])).map (·.reg 15) = some 2 := by decide

/-- A25 -/
theorem test_shl : (ran 0x810E (regs [(1, 0x81)])).map (fun t => (t.reg 1, t.reg 15)) = some (2, 1) := by decide

/-- A27: x = F -/
theorem test_shl_result_last : (ran 0x8F0E (regs [(15, 0xC0)])).map (·.reg 15) = some 0x80 := by decide

/-- A28 to A30: whatever the draw is, it is masked. -/
theorem test_rnd (kk : Byte) (s : State) :
    ∃ t, exec (.rnd 2 kk) s = .next t ∧ t.reg 2 = Config.randomByte s.draws &&& kk :=
  ⟨_, rfl, State.reg_setReg_same _ _ _⟩

/-! ### The index register and memory -/

/-- M1 -/
theorem test_ldI : (ran 0xA300 State.reset).map (·.i) = some 0x300 := by decide

/-- M3, M4 -/
theorem test_addIVx :
    (ran 0xF11E (atI 0xFFF (regs [(1, 1)]))).map (fun t => (t.i, t.faulted)) = some (0x1000, false) ∧
    (ran 0xF11E (atI 0xFFFF (regs [(1, 2)]))).map (·.i) = some 1 := by
  decide

/-- M6: the full byte -/
theorem test_ldFVx : (ran 0xF129 (regs [(1, 0xFF)])).map (·.i) = some 0x4FB := by decide

/-- M11 -/
theorem test_ldBVx :
    (ran 0xF733 (atI 0xFFD (regs [(7, 0xFF)]))).map (fun t => Memory.readBytes t.mem 0xFFD 3) = some [2, 5, 5] := by
  decide

/-- M12 -/
theorem test_ldBVx_fault :
    (ran 0xF733 (atI 0xFFE (regs [(7, 0xFF)]))).map (fun t => (record t, Memory.readBytes t.mem 0xFFE 2)) =
      some ((true, .memRange, 0x1000, 0x200, 0x200), [0, 0]) := by
  decide

/-- M13 -/
theorem test_ldMemVx :
    (ran 0xF155 (atI 0x300 (regs [(0, 0x11), (1, 0x22), (2, 0x33)]))).map
      (fun t => (Memory.readBytes t.mem 0x300 3, t.i)) = some ([0x11, 0x22, 0], 0x300) := by
  decide

/-- M15 -/
theorem test_ldMemVx_fault :
    (ran 0xFF55 (atI 0xFF1 State.reset)).map record = some (true, .memRange, 0x1000, 0x200, 0x200) := by
  decide

/-- M17 -/
theorem test_ldVxMem :
    (ran 0xF065 (bytesAt 0x300 [0xAB] (atI 0x300 (regs [(1, 0x77)])))).map (fun t => (t.reg 0, t.reg 1)) =
      some (0xAB, 0x77) := by
  decide

/-- M19 -/
theorem test_ldVxMem_fault :
    (ran 0xF065 (atI 0x1000 (regs [(0, 1)]))).map (fun t => (record t, t.reg 0)) =
      some ((true, .memRange, 0x1000, 0x200, 0x200), 1) := by
  decide

/-! ### The display -/

/-- A display with every pixel lit. -/
def lit : Display := Vector.replicate 32 0xFFFFFFFFFFFFFFFF

/-- D1, W4 -/
theorem test_cls :
    (ran 0x00E0 { State.reset with disp := lit, dirty := false }).map (fun t => (t.disp, t.dirty)) =
      some (State.reset.disp, true) := by
  decide

/-- W5: columns 60 to 63 and 0 to 3 of row 0. -/
theorem test_drw_wraps :
    (ran 0xD011 (bytesAt 0x300 [0xFF] (atI 0x300 (regs [(0, 0x3C)])))).map (fun t => (t.disp[0], t.disp[1], t.reg 15)) =
      some (0xF00000000000000F, 0, 0) := by
  decide

/-- D5: a collision at column 0, none at column 2. -/
theorem test_drw_collides :
    (ran 0xD011 (bytesAt 0x300 [0xA0] (atI 0x300 { State.reset with
      disp := Display.setPixel State.reset.disp 0 0 true }))).map (fun t => (t.disp[0], t.reg 15)) =
      some (0b100, 1) := by
  decide

/-! ### Keys and timers -/

/-- K1, K2 -/
theorem test_skp :
    (ran 0xE19E ((regs [(1, 3)]).setKey 3 true)).map (·.pc) = some 0x204 ∧
    (ran 0xE19E (regs [(1, 3)])).map (·.pc) = some 0x202 := by
  decide

/-- K4 -/
theorem test_skp_fault :
    (ran 0xE19E (regs [(1, 0x10)])).map record = some (true, .keyRange, 0x10, 0x200, 0x200) := by
  decide

/-- K3 -/
theorem test_sknp : (ran 0xE1A1 (regs [(1, 3)])).map (·.pc) = some 0x204 := by decide

/-- K5 -/
theorem test_sknp_fault :
    (ran 0xE1A1 (regs [(1, 0xFF)])).map record = some (true, .keyRange, 0xFF, 0x200, 0x200) := by
  decide

/-- K6 -/
theorem test_ldVxDT : (ran 0xF407 { State.reset with dt := 0x3C }).map (·.reg 4) = some 0x3C := by decide

/-- K7 -/
theorem test_ldVxK :
    (ran 0xF30A (State.reset.setLastKey 5)).map (fun t => (t.reg 3, t.lastKeyValid, t.wait, t.pc)) =
      some (5, false, false, 0x202) := by
  decide

/-- K8, then K9 and K10 -/
theorem test_ldVxK_waits :
    (ran 0xF30A State.reset).map (fun t => (t.pc, t.wait, t.waitX)) = some (0x200, true, 3) ∧
    ((ran 0xF30A State.reset).bind fun t => stepped (t.setLastKey 12)).map
      (fun t => (t.reg 3, t.lastKeyValid, t.wait, t.pc)) = some (12, false, false, 0x202) := by
  decide

/-- K13 -/
theorem test_ldDTVx : (ran 0xF315 (regs [(3, 0x0C)])).map (·.dt) = some 0x0C := by decide

/-- K14 -/
theorem test_ldSTVx : (ran 0xF218 (regs [(2, 5)])).map (·.st) = some 5 := by decide

/-! ### The host's operations -/

/-- K15, K16 -/
theorem test_tick :
    (State.tick { State.reset with st := 1 }).st = 0 ∧ (State.tick { State.reset with st := 1 }).dt = 0 ∧
    (State.tick { State.reset with dt := 0xFF }).dt = 0xFE := by
  decide

/-- H4 -/
theorem test_load :
    ((regs [(1, 0x44)]).load [0x00, 0xE0]).reg 1 = 0x44 ∧
    Memory.readBytes ((regs [(1, 0x44)]).load [0x00, 0xE0]).mem 0x200 2 = [0x00, 0xE0] := by
  decide

/-- H1: the glyph of "0" after RESET; the bytes are the default font of 10_state.md R31. -/
theorem test_reset_font :
    Memory.readBytes (State.resetWith { State.reset with pc := 0x300 } Config.font).mem 0 5 =
      [0xF0, 0x90, 0x90, 0x90, 0xF0] := by
  decide

/-- H1 with another FONT (00_scope.md R7): RESET loads that FONT. -/
theorem test_reset_other_font :
    Memory.readBytes (State.resetWith State.reset (Config.font.set 79 0xAA)).mem 0x4F 2 = [0xAA, 0x00] := by
  decide

/-- P5: STATUS after a stack overflow with DIRTY = 1. -/
theorem test_status :
    State.status { State.reset with faulted := true, faultCode := .stackOverflow, sp := 16 } = 0x001D := by
  decide

/-! ### Witnesses: states and operands that meet the hypotheses of the statements

Each names the statement it is for; a statement with several clauses has a witness for each, where the clauses meet. -/

/-- A reset state at another PC. -/
def atPc (pc : Word) : State := { State.reset with pc := pc }

/-- A reset state with some number of call-stack entries in use. -/
def withSp (sp : Fin 17) : State := { State.reset with sp := sp }

/-- An engine that waits for a key in an LD V3, K at 0x200. -/
def waiting : State := { placeWord State.reset 0xF30A with wait := true, waitX := 3 }

/-- An engine that has faulted on a RET with an empty stack at 0x200. -/
def faulted : State := (placeWord State.reset 0x00EE).takeFault { code := .stackUnderflow, info := 0 }

/-- A one-row sprite 0x80 at 0x300, with V0 = V1 = 0. -/
def spriteState : State := bytesAt 0x300 [0x80] (atI 0x300 State.reset)

/-- OnlyShiftsIgnoreBits, third clause. -/
theorem witness_OnlyShiftsIgnoreBits :
    decode 0x8124 = .instr (.addReg 1 2) ∧ ∀ x, Instr.addReg 1 2 ≠ .shr x ∧ Instr.addReg 1 2 ≠ .shl x := by
  decide

/-- FamilyZeroAndEx99Unknown: words beside the two instructions and at both ends of the family. -/
theorem witness_FamilyZeroAndEx99Unknown :
    ([0x0000, 0x00DF, 0x00E1, 0x00ED, 0x00EF, 0x0FFF] : List Word).all
      (fun w => decide (w.toNat < 0x1000 ∧ w ≠ 0x00E0 ∧ w ≠ 0x00EE)) = true := by
  decide

/-- RowsAreDisjointAndDecodingFollowsThem. -/
theorem witness_RowsAreDisjointAndDecodingFollowsThem :
    (⟨0xF00F, 0x8004⟩ : Row) ∈ opcodeTable ∧ Row.accepts ⟨0xF00F, 0x8004⟩ 0x8124 = true ∧
    decode 0x8124 = .instr (.addReg 1 2) := by
  decide

/-- StepRunsTheDecodedInstruction: at 0x200, and at 0xFFE, the last address that can be fetched. -/
theorem witness_StepRunsTheDecodedInstruction :
    ∀ s ∈ [placeWord State.reset 0x6005, placeWord (atPc 0xFFE) 0x6005],
      s.faulted = false ∧ s.wait = false ∧ s.pc.toNat + 1 ≤ 0xFFF ∧
      decode (BitVec.ofNat 16 ((Memory.read s.mem s.pc.toNat).toNat * 256 +
        (Memory.read s.mem (s.pc.toNat + 1)).toNat)) = .instr (.ldByte 0 5) := by
  decide

/-- UnknownWordsAreNoOps. -/
theorem witness_UnknownWordsAreNoOps :
    (∀ r ∈ opcodeTable, r.accepts 0x5121 = false) ∧ (placeWord State.reset 0x5121).faulted = false ∧
    (placeWord State.reset 0x5121).wait = false ∧ fetch (placeWord State.reset 0x5121) = .ok 0x5121 :=
  ⟨by decide, rfl, rfl, rfl⟩

/-- GatesOfTheStep: faulted; waiting without a key; waiting with one. -/
theorem witness_GatesOfTheStep :
    faulted.faulted = true ∧ (waiting.faulted = false ∧ waiting.wait = true ∧ waiting.lastKeyValid = false) ∧
    ((waiting.setLastKey 12).faulted = false ∧ (waiting.setLastKey 12).wait = true ∧
      (waiting.setLastKey 12).lastKeyValid = true) := by
  decide

/-- FetchPastMemoryFaults: the word partly and wholly past 0xFFF. -/
theorem witness_FetchPastMemoryFaults :
    ([0xFFF, 0x1000, 0xFFFF] : List Word).all (fun pc => decide
      ((atPc pc).faulted = false ∧ (atPc pc).wait = false ∧ (atPc pc).pc.toNat + 1 > 0xFFF)) = true := by
  decide

/-- JumpWithOffset, the fetch fault of the next STEP: the target 0xFFF. -/
theorem witness_JumpWithOffset :
    ∃ t, exec (.jpV0 0xFFF) State.reset = .next t ∧ State.reset.faulted = false ∧ State.reset.wait = false ∧
      t.pc.toNat > 0xFFE :=
  ⟨_, rfl, rfl, rfl, by decide⟩

/-- CallPushesTheReturnAddress: 15 and 16 entries in use. -/
theorem witness_CallPushesTheReturnAddress : (withSp 15).sp.val < 16 ∧ (withSp 16).sp.val = 16 := by decide

/-- ReturnPopsTheCallStack: one entry, all 16, none. -/
theorem witness_ReturnPopsTheCallStack :
    (withSp 1).sp.val = (0 : Fin 16).val + 1 ∧ (withSp 16).sp.val = (15 : Fin 16).val + 1 ∧
    (withSp 0).sp.val = 0 := by
  decide

/-- CallThenReturnComesBack: a call from depth 15, and the state it leaves. -/
theorem witness_CallThenReturnComesBack :
    ∃ t u : State, (withSp 15).sp.val < 16 ∧ exec (.call 0x300) (withSp 15) = .next t ∧ u.sp = t.sp ∧
      u.stack = t.stack :=
  ⟨_, _, by decide, rfl, rfl, rfl⟩

/-- AtMostSixteenCallsNest: 16 calls from an empty stack, none from a full one, a return from an empty one. -/
theorem witness_AtMostSixteenCallsNest :
    (withSp 0).sp.val + (List.replicate 16 (0x300 : Imm12)).length = 16 ∧
    (withSp 16).sp.val + ([] : List Imm12).length = 16 ∧ (withSp 0).sp.val = 0 := by
  decide

/-- NestedCallsAllComeBack: 16 calls from an empty stack. -/
theorem witness_NestedCallsAllComeBack :
    (withSp 0).sp.val + (List.replicate 15 (0x300 : Imm12)).length + 1 ≤ 16 := by
  decide

/-- BcdStore: the last span inside memory and the first that is not. -/
theorem witness_BcdStore :
    (atI 0xFFD State.reset).i.toNat + 2 ≤ 0xFFF ∧ (atI 0xFFE State.reset).i.toNat + 2 > 0xFFF := by
  decide

/-- RegisterBlockStore and RegisterBlockLoad: one register and sixteen, at the edge and past it. -/
theorem witness_RegisterBlocks :
    (atI 0xFFF State.reset).i.toNat + (0 : Reg).val ≤ 0xFFF ∧ (atI 0x1000 State.reset).i.toNat + (0 : Reg).val > 0xFFF ∧
    (atI 0xFF0 State.reset).i.toNat + (15 : Reg).val ≤ 0xFFF ∧
    (atI 0xFF1 State.reset).i.toNat + (15 : Reg).val > 0xFFF := by
  decide

/-- StoreIsSeenByTheNextFetch: the block is the last word of memory. -/
theorem witness_StoreIsSeenByTheNextFetch :
    ∃ t, 1 ≤ (1 : Reg).val ∧ (atI 0xFFE (atPc 0xFFC)).i = (atI 0xFFE (atPc 0xFFC)).pc + 2 ∧
      (atI 0xFFE (atPc 0xFFC)).i.toNat + (1 : Reg).val ≤ 0xFFF ∧
      exec (.ldMemVx 1) (atI 0xFFE (atPc 0xFFC)) = .next t :=
  ⟨_, by decide, by decide, by decide, rfl⟩

/-- CanonicalMemoryIsItsBytes: a canonical memory with an entry, read and written at both ends. -/
theorem witness_CanonicalMemoryIsItsBytes :
    Memory.wf [(0x000, 0x00), (0xFFF, 0x01)] ∧ 0xFFF < 4096 ∧
    (∀ a : Nat, Memory.read [(0xFFF, 0x01)] a = Memory.read [(0xFFF, 0x01)] a) :=
  ⟨by decide, by decide, fun _ => rfl⟩

/-- DisplayChangesOnlyWithDirty: a CLS, a RESET and a LOAD that change a lit display; a DRW that does not fault; a LOAD
that fits. -/
theorem witness_DisplayChangesOnlyWithDirty :
    (∃ t, exec .cls { State.reset with disp := lit } = .next t ∧ t.disp ≠ lit) ∧
    (∃ t, Operation.reset.perform Config.font { State.reset with disp := lit } = .next t ∧ t.disp ≠ lit) ∧
    (∃ t, exec (.drw 0 1 1) spriteState = .next t ∧ spriteState.faulted = false ∧ t.faulted = false) ∧
    Operation.reply (.load [0x00, 0xE0]) = .ok :=
  ⟨⟨_, rfl, by decide⟩, ⟨_, rfl, by decide⟩, ⟨_, rfl, rfl, rfl⟩, by decide⟩

/-- DrawFlipsTheSpritePixels, first clause: no row, one row at 0xFFF, fifteen rows at 0xFF1; second clause: two rows at
0xFFF, one row at 0x1000. -/
theorem witness_DrawFlipsTheSpritePixels_spans :
    ((0 : Fin 16).val = 0 ∨ (atI 0xFFFF State.reset).i.toNat + (0 : Fin 16).val ≤ 0x1000) ∧
    ((1 : Fin 16).val = 0 ∨ (atI 0xFFF State.reset).i.toNat + (1 : Fin 16).val ≤ 0x1000) ∧
    ((15 : Fin 16).val = 0 ∨ (atI 0xFF1 State.reset).i.toNat + (15 : Fin 16).val ≤ 0x1000) ∧
    ((2 : Fin 16).val ≥ 1 ∧ (atI 0xFFF State.reset).i.toNat + (2 : Fin 16).val > 0x1000) ∧
    ((1 : Fin 16).val ≥ 1 ∧ (atI 0x1000 State.reset).i.toNat + (1 : Fin 16).val > 0x1000) := by
  decide

/-- DrawFlipsTheSpritePixels: a covered pixel, the one wrapped to column 0, and one that is not covered. -/
theorem witness_DrawFlipsTheSpritePixels_pixels :
    SpriteCovers 0x3C 0x00 [0xFF] 60 0 ∧ SpriteCovers 0x3C 0x00 [0xFF] 0 0 ∧ ¬ SpriteCovers 0x3C 0x00 [0xFF] 0 1 := by
  refine ⟨⟨0, 0, by decide, by decide, by decide, by decide, by decide⟩,
    ⟨0, 4, by decide, by decide, by decide, by decide, by decide⟩, ?_⟩
  rintro ⟨row, column, hr, -, -, -, hy⟩
  have h0 : row = 0 := by simpa using hr
  subst h0
  exact absurd hy (by decide)

/-- DrawFlipsTheSpritePixels and DrawingTwiceRestoresTheDisplay: the drawing registers stay, as x and y are not VF. -/
theorem witness_DrawingTwiceRestoresTheDisplay :
    ∃ t, ((1 : Fin 16).val = 0 ∨ spriteState.i.toNat + (1 : Fin 16).val ≤ 0x1000) ∧
      exec (.drw 0 1 1) spriteState = .next t ∧ t.reg 0 = spriteState.reg 0 ∧ t.reg 1 = spriteState.reg 1 :=
  ⟨_, by decide, rfl, by decide, by decide⟩

/-- KeySkips: the highest key number and the first that is none. -/
theorem witness_KeySkips :
    ((regs [(1, 0x0F)]).reg 1).toNat = (15 : Key).val ∧ ((regs [(1, 0x10)]).reg 1).toNat > 0xF := by
  decide

/-- KeyLoadCompletesOrWaits: with a key latched and without. -/
theorem witness_KeyLoadCompletesOrWaits :
    (State.reset.setLastKey 5).lastKeyValid = true ∧ State.reset.lastKeyValid = false := by
  decide

/-- WaitEndsWithTheNextKey: an LD V3, K about to run with no key latched. -/
theorem witness_WaitEndsWithTheNextKey :
    RunsNext (.ldVxK 3) (placeWord State.reset 0xF30A) ∧ (placeWord State.reset 0xF30A).lastKeyValid = false :=
  ⟨⟨rfl, rfl, 0xF30A, rfl, by decide⟩, rfl⟩

/-- FaultsArePrecise and FaultsExactlyWhere: a RET with an empty stack. -/
theorem witness_Faults :
    ∃ t, State.reset.faulted = false ∧ exec .ret State.reset = .next t ∧ t.faulted = true :=
  ⟨_, rfl, rfl, rfl⟩

/-- StepKeepsTheInvariant and StepKeepsTheFaultOfPc: a state about to take a fault, and the state with the fault taken. -/
theorem witness_Inv :
    (Inv (placeWord State.reset 0x00EE) ∧ step (placeWord State.reset 0x00EE) = .next faulted) ∧ Inv faulted :=
  ⟨⟨⟨by decide, ⟨fun _ => ⟨rfl, rfl, rfl⟩, by decide⟩, by decide⟩, rfl⟩,
    ⟨by decide, ⟨by decide, fun _ => ⟨by decide, rfl⟩⟩, by decide⟩⟩

/-- StepKeepsTheFaultOfPc: the recorded fault is that of the RET at PC. -/
theorem witness_FaultIsOfPc : FaultIsOfPc faulted ∧ faulted.faulted = true ∧ step faulted = .next faulted :=
  ⟨fun _ => rfl, rfl, rfl⟩

/-- EveryReachableStateMeetsTheInvariant: the reset state of an engine is reachable, with any FONT, and an operation
runs on a state that meets the invariant. -/
theorem witness_Reachable (font : Font) :
    Reachable font (State.resetOf font) ∧
    (Inv faulted ∧ Operation.tick.perform font faulted = .next faulted.tick) :=
  ⟨⟨[], rfl⟩, witness_Inv.2, rfl⟩

/-- StepKeepsTheWaitOnItsInstruction: an engine that waits, and goes on waiting. -/
theorem witness_WaitsAtItsInstruction :
    WaitsAtItsInstruction waiting ∧ waiting.wait = true ∧ step waiting = .next waiting :=
  ⟨fun _ => ⟨0xF30A, rfl, by decide⟩, rfl, rfl⟩

/-- OnlyTheNamedInstructionsChangeIt: an instruction that changes I. -/
theorem witness_OnlyTheNamedInstructionsChangeIt :
    ∃ t, exec (.ldI 0x300) State.reset = .next t ∧ t.i ≠ State.reset.i :=
  ⟨_, rfl, by decide⟩

/-- OnlyNamedRegistersChange: an instruction that changes V5. -/
theorem witness_OnlyNamedRegistersChange :
    ∃ t, exec (.ldByte 5 0x2A) State.reset = .next t ∧ t.reg 5 ≠ State.reset.reg 5 :=
  ⟨_, rfl, by decide⟩

/-- QuiescentStatesStay: one state of each kind. -/
theorem witness_QuiescentStatesStay :
    Quiescent faulted ∧ Quiescent waiting ∧ Quiescent (placeWord State.reset 0x1200) :=
  ⟨.inl rfl, .inr (.inl ⟨rfl, rfl⟩), .inr (.inr ⟨0x200, ⟨rfl, rfl, 0x1200, rfl, by decide⟩, by decide⟩)⟩

/-- LoadCopiesOrRefuses: the longest program and one byte more. -/
theorem witness_LoadCopiesOrRefuses :
    (List.replicate 3584 (0x12 : Byte)).length ≤ 3584 ∧ (List.replicate 3585 (0x12 : Byte)).length > 3584 :=
  ⟨Nat.le_of_eq List.length_replicate, by rw [List.length_replicate]; omega⟩

/-- FirstFetchAfterLoad: the longest program, after its first two bytes. -/
theorem witness_FirstFetchAfterLoad : (List.replicate 3582 (0x00 : Byte)).length ≤ 3582 :=
  Nat.le_of_eq List.length_replicate

end Sys2Proof.Tests
end

section
/-!
PROOFS. 30_encoding.md: what a word that decodes to an instruction is made of (its row's fixed bits, the operand fields,
and for SHR and SHL the y nibble), and what the words are that decode to none.
-/

namespace Sys2Proof

/-! ### The fields of any word -/

theorem fieldOp_eq (w : Word) : fieldOp w = w.toNat / 4096 := by
  have hlt := w.isLt
  have h := fieldOp_ofNat w.toNat
  rw [BitVec.ofNat_toNat, BitVec.setWidth_eq] at h
  omega

theorem fieldX_eq (w : Word) : (fieldX w).val = w.toNat / 256 % 16 := by
  simpa using fieldX_ofNat w.toNat

theorem fieldY_eq (w : Word) : (fieldY w).val = w.toNat / 16 % 16 := by
  simpa using fieldY_ofNat w.toNat

theorem fieldN_eq (w : Word) : (fieldN w).val = w.toNat % 16 := by
  simpa using fieldN_ofNat w.toNat

theorem fieldKK_eq (w : Word) : (fieldKK w).toNat = w.toNat % 256 := by
  simpa using fieldKK_ofNat w.toNat

theorem fieldNNN_eq (w : Word) : (fieldNNN w).toNat = w.toNat % 4096 := by
  simpa using fieldNNN_ofNat w.toNat

theorem fieldX_ofNat_eq {n : Nat} {x : Reg} (h : n / 256 % 16 = x.val) : fieldX (BitVec.ofNat 16 n) = x :=
  Fin.ext (by rw [fieldX_ofNat, h])

/-! ### The words of an instruction -/

/-- What a word holds beyond its instruction: the y nibble of SHR and SHL, in its place (30_encoding.md R56). -/
def Instr.ignoredBits (w : Word) : Instr → Nat
  | .shr _ => (fieldY w).val * 16
  | .shl _ => (fieldY w).val * 16
  | _ => 0

/-- The word is one of the instruction: it matches the row, and it is the row's fixed bits, the operand fields and the
ignored bits, so that no other bit of it is lost in decoding. -/
structure Instr.HasWord (i : Instr) (w : Word) : Prop where
  accepts : i.row.accepts w = true
  toNat_eq : w.toNat = i.row.fixed.toNat + i.fields.place + i.ignoredBits w

/-- Every mask of the opcode table selects `op` and the lowest `k` bits (k = 0, 4, 8 or 12). -/
theorem toNat_and_mask {w m : Word} {k : Nat} (hk : k ≤ 12) (hm : m.toNat = 0xF000 + (2 ^ k - 1)) :
    (w &&& m).toNat = fieldOp w * 4096 + w.toNat % 2 ^ k := by
  have hpow : 2 ^ k ≤ 2 ^ 12 := Nat.pow_le_pow_right (by decide) hk
  have hpos : 0 < 2 ^ k := Nat.two_pow_pos k
  have hhigh : (w.toNat &&& m.toNat) / 2 ^ 12 = w.toNat / 2 ^ 12 % 2 ^ 4 := by
    rw [Nat.and_div_two_pow, show m.toNat / 2 ^ 12 = 2 ^ 4 - 1 by omega, Nat.and_two_pow_sub_one_eq_mod]
  have hlow : (w.toNat &&& m.toNat) % 2 ^ 12 = w.toNat % 2 ^ k := by
    rw [Nat.and_mod_two_pow, show m.toNat % 2 ^ 12 = 2 ^ k - 1 by omega, Nat.and_two_pow_sub_one_eq_mod,
      Nat.mod_mod_of_dvd _ (Nat.pow_dvd_pow 2 hk)]
  have hlt := w.isLt
  rw [BitVec.toNat_and, fieldOp_eq]
  omega

/-- A word is one of the instruction when `op` and its lowest `k` bits are those of the row, and the bits between are
operand fields or ignored. -/
theorem Instr.hasWord_of_selector {i : Instr} {w : Word} {k : Nat} (hk : k ≤ 12)
    (hmask : i.row.mask.toNat = 0xF000 + (2 ^ k - 1))
    (hfixed : i.row.fixed.toNat = fieldOp w * 4096 + w.toNat % 2 ^ k)
    (hplace : i.fields.place + i.ignoredBits w + w.toNat % 2 ^ k = w.toNat % 4096) : i.HasWord w where
  accepts := by
    rw [Row.accepts, beq_iff_eq]
    exact BitVec.eq_of_toNat_eq (by rw [toNat_and_mask hk hmask, hfixed])
  toNat_eq := by
    have hop := fieldOp_eq w
    omega

/-- Rows that `op` alone selects. -/
theorem Instr.hasWord_of_op {i : Instr} {w : Word} (hmask : i.row.mask = 0xF000)
    (hfixed : i.row.fixed.toNat = fieldOp w * 4096)
    (hplace : i.fields.place + i.ignoredBits w = w.toNat % 4096) : i.HasWord w :=
  hasWord_of_selector (k := 0) (by decide) (by rw [hmask]; decide)
    (by rw [hfixed, Nat.pow_zero, Nat.mod_one, Nat.add_zero]) (by rw [Nat.pow_zero, Nat.mod_one, Nat.add_zero, hplace])

/-- Rows that `op` and `n` select, with the fields x and y or x and the ignored y nibble. -/
theorem Instr.hasWord_of_op_n {i : Instr} {w : Word} {n : Nat} (hn : (fieldN w).val = n) (hmask : i.row.mask = 0xF00F)
    (hfixed : i.row.fixed.toNat = fieldOp w * 4096 + n)
    (hplace : i.fields.place + i.ignoredBits w = (fieldX w).val * 256 + (fieldY w).val * 16) : i.HasWord w := by
  have hx := fieldX_eq w
  have hy := fieldY_eq w
  rw [fieldN_eq] at hn
  exact hasWord_of_selector (k := 4) (by decide) (by rw [hmask]; decide) (by omega) (by omega)

/-- Rows that `op` and `kk` select, with the field x. -/
theorem Instr.hasWord_of_op_kk {i : Instr} {w : Word} {kk : Nat} (hkk : (fieldKK w).toNat = kk)
    (hmask : i.row.mask = 0xF0FF) (hfixed : i.row.fixed.toNat = fieldOp w * 4096 + kk)
    (hplace : i.fields.place + i.ignoredBits w = (fieldX w).val * 256) : i.HasWord w := by
  have hx := fieldX_eq w
  rw [fieldKK_eq] at hkk
  exact hasWord_of_selector (k := 8) (by decide) (by rw [hmask]; decide) (by omega) (by omega)

/-- Rows that the whole word selects. -/
theorem Instr.hasWord_of_word {i : Instr} {w : Word} (hmask : i.row.mask = 0xFFFF) (hfixed : i.row.fixed = w)
    (hplace : i.fields.place + i.ignoredBits w = 0) : i.HasWord w := by
  have hop := fieldOp_eq w
  exact hasWord_of_selector (k := 12) (by decide) (by rw [hmask]; decide) (by rw [hfixed]; omega) (by omega)

/-! ### What the decoder answers -/

/-- The row of every instruction is in the table: the per-instruction laws, collected. -/
theorem Instr.row_mem_opcodeTable : ∀ i : Instr, i.row ∈ opcodeTable
  | .cls => Laws.RowOfTable.cls
  | .ret => Laws.RowOfTable.ret
  | .jp nnn => Laws.RowOfTable.jp nnn
  | .call nnn => Laws.RowOfTable.call nnn
  | .seByte x kk => Laws.RowOfTable.seByte x kk
  | .sneByte x kk => Laws.RowOfTable.sneByte x kk
  | .seReg x y => Laws.RowOfTable.seReg x y
  | .ldByte x kk => Laws.RowOfTable.ldByte x kk
  | .addByte x kk => Laws.RowOfTable.addByte x kk
  | .ldReg x y => Laws.RowOfTable.ldReg x y
  | .orReg x y => Laws.RowOfTable.orReg x y
  | .andReg x y => Laws.RowOfTable.andReg x y
  | .xorReg x y => Laws.RowOfTable.xorReg x y
  | .addReg x y => Laws.RowOfTable.addReg x y
  | .subReg x y => Laws.RowOfTable.subReg x y
  | .shr x => Laws.RowOfTable.shr x
  | .subnReg x y => Laws.RowOfTable.subnReg x y
  | .shl x => Laws.RowOfTable.shl x
  | .sneReg x y => Laws.RowOfTable.sneReg x y
  | .ldI nnn => Laws.RowOfTable.ldI nnn
  | .jpV0 nnn => Laws.RowOfTable.jpV0 nnn
  | .rnd x kk => Laws.RowOfTable.rnd x kk
  | .drw x y n => Laws.RowOfTable.drw x y n
  | .skp x => Laws.RowOfTable.skp x
  | .sknp x => Laws.RowOfTable.sknp x
  | .ldVxDT x => Laws.RowOfTable.ldVxDT x
  | .ldVxK x => Laws.RowOfTable.ldVxK x
  | .ldDTVx x => Laws.RowOfTable.ldDTVx x
  | .ldSTVx x => Laws.RowOfTable.ldSTVx x
  | .addIVx x => Laws.RowOfTable.addIVx x
  | .ldFVx x => Laws.RowOfTable.ldFVx x
  | .ldBVx x => Laws.RowOfTable.ldBVx x
  | .ldMemVx x => Laws.RowOfTable.ldMemVx x
  | .ldVxMem x => Laws.RowOfTable.ldVxMem x

/-- An answer to a word: an instruction that the word is one of, or UNKNOWN of the word itself. -/
def Decoded.Answers (w : Word) : Decoded → Prop
  | .instr i => i.HasWord w
  | .unknown u => u = w

theorem decodeFamily0_answers {w : Word} : (decodeFamily0 w).Answers w := by
  unfold decodeFamily0
  split
  next h => exact Instr.hasWord_of_word rfl (BitVec.eq_of_toNat_eq h.symm) rfl
  next h => exact Instr.hasWord_of_word rfl (BitVec.eq_of_toNat_eq h.symm) rfl
  next => rfl

theorem decodeFamily5_answers {w : Word} (hop : fieldOp w = 0x5) : (decodeFamily5 w).Answers w := by
  unfold decodeFamily5
  split
  next hn =>
    refine Instr.hasWord_of_op_n hn rfl ?_ ?_ <;>
      simp [Instr.row, Instr.fields, Fields.place, Instr.ignoredBits, hop]
  next => rfl

theorem decodeFamily8_answers {w : Word} (hop : fieldOp w = 0x8) : (decodeFamily8 w).Answers w := by
  unfold decodeFamily8
  split
  case h_10 => rfl
  all_goals
    rename_i hn
    refine Instr.hasWord_of_op_n hn rfl ?_ ?_ <;>
      simp [Instr.row, Instr.fields, Fields.place, Instr.ignoredBits, hop]

theorem decodeFamily9_answers {w : Word} (hop : fieldOp w = 0x9) : (decodeFamily9 w).Answers w := by
  unfold decodeFamily9
  split
  next hn =>
    refine Instr.hasWord_of_op_n hn rfl ?_ ?_ <;>
      simp [Instr.row, Instr.fields, Fields.place, Instr.ignoredBits, hop]
  next => rfl

theorem decodeFamilyE_answers {w : Word} (hop : fieldOp w = 0xE) : (decodeFamilyE w).Answers w := by
  unfold decodeFamilyE
  split
  case h_3 => rfl
  all_goals
    rename_i hkk
    refine Instr.hasWord_of_op_kk hkk rfl ?_ ?_ <;>
      simp [Instr.row, Instr.fields, Fields.place, Instr.ignoredBits, hop]

theorem decodeFamilyF_answers {w : Word} (hop : fieldOp w = 0xF) : (decodeFamilyF w).Answers w := by
  unfold decodeFamilyF
  split
  case h_10 => rfl
  all_goals
    rename_i hkk
    refine Instr.hasWord_of_op_kk hkk rfl ?_ ?_ <;>
      simp [Instr.row, Instr.fields, Fields.place, Instr.ignoredBits, hop]

/-- The ten families in which `op` alone selects the row. -/
theorem decode_answers_of_op_alone {w : Word} (h : fieldOp w ∈ [0x1, 0x2, 0x3, 0x4, 0x6, 0x7, 0xA, 0xB, 0xC, 0xD]) :
    (decode w).Answers w := by
  have hx := fieldX_eq w
  have hy := fieldY_eq w
  have hn := fieldN_eq w
  have hkk := fieldKK_eq w
  have hnnn := fieldNNN_eq w
  simp only [List.mem_cons, List.not_mem_nil, or_false] at h
  rcases h with hop | hop | hop | hop | hop | hop | hop | hop | hop | hop
  all_goals
    simp only [decode_family1, decode_family2, decode_family3, decode_family4, decode_family6, decode_family7,
      decode_familyA, decode_familyB, decode_familyC, decode_familyD, hop]
    refine Instr.hasWord_of_op rfl (by simp [Instr.row, hop]) ?_
    simp only [Instr.fields, Fields.place, Instr.ignoredBits]
    omega

/-- Every answer of the decoder, family by family. -/
theorem decode_answers (w : Word) : (decode w).Answers w := by
  have hfamily : fieldOp w = 0x0 ∨ fieldOp w = 0x5 ∨ fieldOp w = 0x8 ∨ fieldOp w = 0x9 ∨ fieldOp w = 0xE ∨
      fieldOp w = 0xF ∨ fieldOp w ∈ [0x1, 0x2, 0x3, 0x4, 0x6, 0x7, 0xA, 0xB, 0xC, 0xD] := by
    have hlt := fieldOp_lt w
    simp only [List.mem_cons, List.not_mem_nil, or_false]
    omega
  rcases hfamily with hop | hop | hop | hop | hop | hop | hop
  · rw [decode_family0 hop]; exact decodeFamily0_answers
  · rw [decode_family5 hop]; exact decodeFamily5_answers hop
  · rw [decode_family8 hop]; exact decodeFamily8_answers hop
  · rw [decode_family9 hop]; exact decodeFamily9_answers hop
  · rw [decode_familyE hop]; exact decodeFamilyE_answers hop
  · rw [decode_familyF hop]; exact decodeFamilyF_answers hop
  · exact decode_answers_of_op_alone hop

/-- The one inversion of `decode`: its instruction is one the word is of. -/
theorem hasWord_of_decode {w : Word} {i : Instr} (h : decode w = .instr i) : i.HasWord w := by
  have ha := decode_answers w
  rwa [h] at ha

/-- UNKNOWN carries the very word (30_encoding.md R54). -/
theorem eq_of_decode_unknown {w u : Word} (h : decode w = .unknown u) : u = w := by
  have ha := decode_answers w
  rwa [h] at ha

/-- A word that no row of the table matches is UNKNOWN (30_encoding.md R54). -/
theorem decode_of_no_row {w : Word} (h : ∀ r ∈ opcodeTable, r.accepts w = false) : decode w = .unknown w := by
  cases hd : decode w with
  | unknown u => rw [eq_of_decode_unknown hd]
  | instr i =>
    have haccepts := (hasWord_of_decode hd).accepts
    rw [h i.row (Instr.row_mem_opcodeTable i)] at haccepts
    contradiction

/-! ### Writing a word back -/

theorem Instr.ignoredBits_eq_zero {i : Instr} (w : Word) (h : ∀ x, i ≠ .shr x ∧ i ≠ .shl x) :
    i.ignoredBits w = 0 := by
  cases i
  case shr x => exact absurd rfl (h x).1
  case shl x => exact absurd rfl (h x).2
  all_goals rfl

/-- Where no bit is ignored, the encoder gives back the word that was decoded. -/
theorem encode_of_hasWord {i : Instr} {w : Word} (h : i.HasWord w) (hi : i.ignoredBits w = 0) : encode i = w := by
  rw [encode, ← Nat.add_zero (_ + _), ← hi, ← h.toNat_eq, BitVec.ofNat_toNat, BitVec.setWidth_eq]

theorem decode_shr {w : Word} (hop : fieldOp w = 0x8) (hn : (fieldN w).val = 0x6) :
    decode w = .instr (.shr (fieldX w)) := by
  simp [decode_family8 hop, decodeFamily8, hn]

theorem decode_shl {w : Word} (hop : fieldOp w = 0x8) (hn : (fieldN w).val = 0xE) :
    decode w = .instr (.shl (fieldX w)) := by
  simp [decode_family8 hop, decodeFamily8, hn]

/-- Settles O2: the word of a decoded instruction is the row's fixed bits, the operand fields and the ignored bits, and
only SHR and SHL ignore any. -/
theorem onlyShiftsIgnoreBits : Obligations.OnlyShiftsIgnoreBits := by
  refine ⟨fun x y => ?_, fun x y => ?_, fun w i hd hi => ?_⟩
  · rw [decode_shr (by rw [fieldOp_ofNat]; omega) (by rw [fieldN_ofNat]; omega), fieldX_ofNat_eq (x := x) (by omega)]
  · rw [decode_shl (by rw [fieldOp_ofNat]; omega) (by rw [fieldN_ofNat]; omega), fieldX_ofNat_eq (x := x) (by omega)]
  · exact encode_of_hasWord (hasWord_of_decode hd) (Instr.ignoredBits_eq_zero w hi)

/-! ### Words that are no instruction -/

theorem decode_family0_unknown {w : Word} (hlt : w.toNat < 0x1000) (hcls : w ≠ 0x00E0) (hret : w ≠ 0x00EE) :
    decode w = .unknown w := by
  rw [decode_family0 (by rw [fieldOp_eq]; omega), decodeFamily0]
  split
  next h => exact absurd (BitVec.eq_of_toNat_eq h) hcls
  next h => exact absurd (BitVec.eq_of_toNat_eq h) hret
  next => rfl

theorem decode_Ex99 {w : Word} (hop : fieldOp w = 0xE) (hkk : (fieldKK w).toNat = 0x99) : decode w = .unknown w := by
  simp [decode_familyE hop, decodeFamilyE, hkk]

/-- Settles O3: family 0 matches two whole words, and no row of family E has the low byte 0x99. -/
theorem familyZeroAndEx99Unknown : Obligations.FamilyZeroAndEx99Unknown :=
  ⟨by decide, by decide, fun _ hlt hcls hret => decode_family0_unknown hlt hcls hret,
    fun x => decode_Ex99 (by rw [fieldOp_ofNat]; omega) (by rw [fieldKK_ofNat]; omega)⟩

end Sys2Proof

namespace Sys2Proof.Machine

/-! ### The STEP over an UNKNOWN word -/

/-- The advance of PC changes PC alone. -/
theorem sameBut_advance (s : State) : SameBut [.pc] s s.advance := by
  intro p hp
  cases p
  case pc => simp at hp
  all_goals simp [Part.same]

theorem step_unknown {s : State} {w u : Word} (hf : s.faulted = false) (hw : s.wait = false)
    (hfetch : fetch s = .ok w) (hd : decode w = .unknown u) : step s = .next s.advance := by
  simp [step, engineStep, hf, hw, hfetch, runWord, hd, execUnknown, execute]

/-- Settles O7: decoding answers only rows that accept the word, and the no-op's execute phase leaves the advanced
state. -/
theorem unknownWordsAreNoOps : Obligations.UnknownWordsAreNoOps := by
  intro w hrow
  have hd := decode_of_no_row hrow
  exact ⟨hd, fun s hf hw hfetch => ⟨s.advance, step_unknown hf hw hfetch hd, s.advance_pc, sameBut_advance s⟩⟩

end Sys2Proof.Machine
end

section
/-!
PROOFS. 41_control_flow.md: the jump and the conditional skips, each with its encoding, its effect on PC and its frame.
-/

namespace Sys2Proof

/-! ### The operands of a word written as a sum of its fields -/

theorem fieldY_ofNat_eq {n : Nat} {y : Reg} (h : n / 16 % 16 = y.val) : fieldY (BitVec.ofNat 16 n) = y :=
  Fin.ext (by rw [fieldY_ofNat, h])

theorem fieldKK_ofNat_eq {n : Nat} {kk : Byte} (h : n % 256 = kk.toNat) : fieldKK (BitVec.ofNat 16 n) = kk :=
  BitVec.eq_of_toNat_eq (by rw [fieldKK_ofNat, h])

theorem fieldNNN_ofNat_eq {n : Nat} {nnn : Imm12} (h : n % 4096 = nnn.toNat) : fieldNNN (BitVec.ofNat 16 n) = nnn :=
  BitVec.eq_of_toNat_eq (by rw [fieldNNN_ofNat, h])

/-! ### The words of the jump and the skips -/

theorem decode_jp (nnn : Imm12) : decode (BitVec.ofNat 16 (0x1000 + nnn.toNat)) = .instr (.jp nnn) := by
  rw [decode_family1 (by rw [fieldOp_ofNat]; omega), fieldNNN_ofNat_eq (nnn := nnn) (by omega)]

theorem decode_seByte (x : Reg) (kk : Byte) :
    decode (BitVec.ofNat 16 (0x3000 + x.val * 256 + kk.toNat)) = .instr (.seByte x kk) := by
  rw [decode_family3 (by rw [fieldOp_ofNat]; omega), fieldX_ofNat_eq (x := x) (by omega),
    fieldKK_ofNat_eq (kk := kk) (by omega)]

theorem decode_sneByte (x : Reg) (kk : Byte) :
    decode (BitVec.ofNat 16 (0x4000 + x.val * 256 + kk.toNat)) = .instr (.sneByte x kk) := by
  rw [decode_family4 (by rw [fieldOp_ofNat]; omega), fieldX_ofNat_eq (x := x) (by omega),
    fieldKK_ofNat_eq (kk := kk) (by omega)]

theorem decodeFamily5_zero {w : Word} (hn : (fieldN w).val = 0x0) :
    decodeFamily5 w = .instr (.seReg (fieldX w) (fieldY w)) := by
  simp [decodeFamily5, hn]

theorem decodeFamily9_zero {w : Word} (hn : (fieldN w).val = 0x0) :
    decodeFamily9 w = .instr (.sneReg (fieldX w) (fieldY w)) := by
  simp [decodeFamily9, hn]

theorem decode_seReg (x y : Reg) :
    decode (BitVec.ofNat 16 (0x5000 + x.val * 256 + y.val * 16)) = .instr (.seReg x y) := by
  rw [decode_family5 (by rw [fieldOp_ofNat]; omega), decodeFamily5_zero (by rw [fieldN_ofNat]; omega),
    fieldX_ofNat_eq (x := x) (by omega), fieldY_ofNat_eq (y := y) (by omega)]

theorem decode_sneReg (x y : Reg) :
    decode (BitVec.ofNat 16 (0x9000 + x.val * 256 + y.val * 16)) = .instr (.sneReg x y) := by
  rw [decode_family9 (by rw [fieldOp_ofNat]; omega), decodeFamily9_zero (by rw [fieldN_ofNat]; omega),
    fieldX_ofNat_eq (x := x) (by omega), fieldY_ofNat_eq (y := y) (by omega)]

end Sys2Proof

namespace Sys2Proof.Machine

/-! ### What a write to PC leaves unchanged -/

theorem zextImm_toNat (nnn : Imm12) : (zextImm nnn).toNat = nnn.toNat :=
  BitVec.toNat_setWidth_of_le (by decide)

theorem sameBut_setPc (s : State) (a : Word) : SameBut [.pc] s { s with pc := a } := by
  intro p hp
  cases p
  case pc => simp at hp
  all_goals simp [Part.same, State.reg]

/-- A skip after the advance of PC is a write to PC. -/
theorem State.skipIf_advance (s : State) (c : Bool) :
    s.advance.skipIf c = { s with pc := if c then s.pc + 4 else s.pc + 2 } := by
  cases c
  case false => rfl
  case true => simp [State.skipIf, State.advance, BitVec.add_assoc]

/-- The skip primitive of R73 under a test `c` that decides the condition `p`. -/
theorem skips_skipIf {p : Prop} {c : Bool} (s : State) (hc : c = true ↔ p) : Skips p s (s.advance.skipIf c) := by
  rw [State.skipIf_advance]
  refine ⟨fun hp => ?_, fun hp => ?_, sameBut_setPc s _⟩
  · exact if_pos (hc.mpr hp)
  · exact if_neg fun h => hp (hc.mp h)

/-- Settles O11: the jump's execute phase writes PC alone. -/
theorem jumpSetsPc : Obligations.JumpSetsPc := fun nnn =>
  ⟨decode_jp nnn, fun s => ⟨_, exec_jp nnn s, zextImm_toNat nnn, sameBut_setPc s _⟩⟩

/-- Settles O12: each skip is the skip primitive under its own comparison. -/
theorem conditionalSkips : Obligations.ConditionalSkips :=
  ⟨fun x kk => ⟨decode_seByte x kk, fun s => ⟨_, exec_seByte x kk s, skips_skipIf s beq_iff_eq⟩⟩,
    fun x kk => ⟨decode_sneByte x kk, fun s => ⟨_, exec_sneByte x kk s, skips_skipIf s bne_iff_ne⟩⟩,
    fun x y => ⟨decode_seReg x y, fun s => ⟨_, exec_seReg x y s, skips_skipIf s beq_iff_eq⟩⟩,
    fun x y => ⟨decode_sneReg x y, fun s => ⟨_, exec_sneReg x y s, skips_skipIf s bne_iff_ne⟩⟩⟩

end Sys2Proof.Machine
end

section
/-!
PROOFS. 42_alu.md R84 to R89: the loads, the sum with an immediate and the three logic instructions, each with its
encoding, the one register it writes and its frame.
-/

namespace Sys2Proof

/-! ### The words of the loads, the immediate sum and the logic instructions -/

theorem decode_ldByte (x : Reg) (kk : Byte) :
    decode (BitVec.ofNat 16 (0x6000 + x.val * 256 + kk.toNat)) = .instr (.ldByte x kk) := by
  rw [decode_family6 (by rw [fieldOp_ofNat]; omega), fieldX_ofNat_eq (x := x) (by omega),
    fieldKK_ofNat_eq (kk := kk) (by omega)]

theorem decode_addByte (x : Reg) (kk : Byte) :
    decode (BitVec.ofNat 16 (0x7000 + x.val * 256 + kk.toNat)) = .instr (.addByte x kk) := by
  rw [decode_family7 (by rw [fieldOp_ofNat]; omega), fieldX_ofNat_eq (x := x) (by omega),
    fieldKK_ofNat_eq (kk := kk) (by omega)]

/-- The rows of family 8 with operands x and y: `i` is the instruction that the low nibble `n` selects. -/
theorem decode_family8_xy {i : Reg → Reg → Instr} {n : Nat} (hlt : n < 16)
    (hrow : ∀ w, (fieldN w).val = n → decodeFamily8 w = .instr (i (fieldX w) (fieldY w))) (x y : Reg) :
    decode (BitVec.ofNat 16 (0x8000 + n + x.val * 256 + y.val * 16)) = .instr (i x y) := by
  rw [decode_family8 (by rw [fieldOp_ofNat]; omega), hrow _ (by rw [fieldN_ofNat]; omega),
    fieldX_ofNat_eq (x := x) (by omega), fieldY_ofNat_eq (y := y) (by omega)]

theorem decode_ldReg (x y : Reg) :
    decode (BitVec.ofNat 16 (0x8000 + x.val * 256 + y.val * 16)) = .instr (.ldReg x y) :=
  decode_family8_xy (n := 0x0) (by decide) (fun w hn => by simp [decodeFamily8, hn]) x y

theorem decode_orReg (x y : Reg) :
    decode (BitVec.ofNat 16 (0x8001 + x.val * 256 + y.val * 16)) = .instr (.orReg x y) :=
  decode_family8_xy (n := 0x1) (by decide) (fun w hn => by simp [decodeFamily8, hn]) x y

theorem decode_andReg (x y : Reg) :
    decode (BitVec.ofNat 16 (0x8002 + x.val * 256 + y.val * 16)) = .instr (.andReg x y) :=
  decode_family8_xy (n := 0x2) (by decide) (fun w hn => by simp [decodeFamily8, hn]) x y

theorem decode_xorReg (x y : Reg) :
    decode (BitVec.ofNat 16 (0x8003 + x.val * 256 + y.val * 16)) = .instr (.xorReg x y) :=
  decode_family8_xy (n := 0x3) (by decide) (fun w hn => by simp [decodeFamily8, hn]) x y

end Sys2Proof

namespace Sys2Proof.Machine

/-! ### A write to one register -/

theorem sameBut_setReg_advance (s : State) (x : Reg) (b : Byte) : SameBut [.regs, .pc] s (s.advance.setReg x b) := by
  intro p hp
  cases p
  case regs => simp at hp
  case pc => simp at hp
  all_goals simp [Part.same]

/-- The register write after the advance of PC, whichever register it is, VF included. -/
theorem writesReg_setReg_advance (s : State) (x : Reg) (b : Byte) : WritesReg x b s (s.advance.setReg x b) :=
  ⟨rfl, fun r => by rw [State.reg_setReg, State.reg_advance], sameBut_setReg_advance s x b⟩

/-- Byte addition is the sum modulo 256. -/
theorem ofNat_add_mod_eq_add (a b : Byte) : BitVec.ofNat 8 ((a.toNat + b.toNat) % 256) = a + b :=
  BitVec.eq_of_toNat_eq (by rw [BitVec.toNat_ofNat, BitVec.toNat_add, Nat.mod_mod])

/-- Settles O19: both write the register x alone, and byte addition wraps. -/
theorem immediateLoadAndAdd : Obligations.ImmediateLoadAndAdd := by
  refine fun x kk => ⟨decode_ldByte x kk, decode_addByte x kk, fun s => ⟨?_, ?_⟩⟩
  · exact ⟨_, exec_ldByte x kk s, writesReg_setReg_advance s x _⟩
  · rw [ofNat_add_mod_eq_add]
    exact ⟨_, exec_addByte x kk s, writesReg_setReg_advance s x _⟩

/-- Settles O20: each of the four writes its own value to the register x alone. -/
theorem copyAndLogic : Obligations.CopyAndLogic := fun x y =>
  ⟨decode_ldReg x y, decode_orReg x y, decode_andReg x y, decode_xorReg x y, fun s =>
    ⟨⟨_, exec_ldReg x y s, writesReg_setReg_advance s x _⟩, ⟨_, exec_orReg x y s, writesReg_setReg_advance s x _⟩,
      ⟨_, exec_andReg x y s, writesReg_setReg_advance s x _⟩, ⟨_, exec_xorReg x y s, writesReg_setReg_advance s x _⟩⟩⟩

end Sys2Proof.Machine
end

section
/-!
PROOFS. 43_index_memory.md R97 and R99: the two loads of I, each with its encoding, the value I takes and its frame.
-/

namespace Sys2Proof

/-! ### The words of the loads of I -/

theorem decode_ldI (nnn : Imm12) : decode (BitVec.ofNat 16 (0xA000 + nnn.toNat)) = .instr (.ldI nnn) := by
  rw [decode_familyA (by rw [fieldOp_ofNat]; omega), fieldNNN_ofNat_eq (nnn := nnn) (by omega)]

/-- The rows of family F: `i` is the instruction that the low byte `kk` selects. -/
theorem decode_familyF_x {i : Reg → Instr} {kk : Nat} (hlt : kk < 256)
    (hrow : ∀ w, (fieldKK w).toNat = kk → decodeFamilyF w = .instr (i (fieldX w))) (x : Reg) :
    decode (BitVec.ofNat 16 (0xF000 + kk + x.val * 256)) = .instr (i x) := by
  rw [decode_familyF (by rw [fieldOp_ofNat]; omega), hrow _ (by rw [fieldKK_ofNat]; omega),
    fieldX_ofNat_eq (x := x) (by omega)]

theorem decode_ldFVx (x : Reg) : decode (BitVec.ofNat 16 (0xF029 + x.val * 256)) = .instr (.ldFVx x) :=
  decode_familyF_x (kk := 0x29) (by decide) (fun w hkk => by simp [decodeFamilyF, hkk]) x

end Sys2Proof

namespace Sys2Proof.Machine

/-! ### A write to I -/

theorem sameBut_setI_advance (s : State) (a : Word) : SameBut [.index, .pc] s { s.advance with i := a } := by
  intro p hp
  cases p
  case index => simp at hp
  case pc => simp at hp
  all_goals simp [Part.same, State.reg]

/-- Five times a byte is at most 1275, so the glyph address is exact (43_index_memory.md R99). -/
theorem glyphAddress_toNat (b : Byte) : (glyphAddress b).toNat = b.toNat * 5 := by
  rw [glyphAddress, BitVec.toNat_ofNat, Nat.mod_eq_of_lt (by omega)]

/-- Settles O24: each load writes I after the advance of PC, and neither value is cut at 16 bits. -/
theorem indexLoads : Obligations.IndexLoads :=
  ⟨fun nnn => ⟨decode_ldI nnn, fun s =>
      ⟨_, exec_ldI nnn s, zextImm_toNat nnn, s.advance_pc, sameBut_setI_advance s _⟩⟩,
    fun x => ⟨decode_ldFVx x, fun s =>
      ⟨_, exec_ldFVx x s, glyphAddress_toNat (s.reg x), s.advance_pc, sameBut_setI_advance s _⟩⟩⟩

end Sys2Proof.Machine
end

section
/-!
PROOFS. 44_display.md: CLS, and DRW as the exclusive or of the display with the set of sprite pixels (R104 to R107), each
with its encoding, its frame and its fault.
-/

namespace Sys2Proof

theorem decode_drw (x y : Reg) (n : Fin 16) :
    decode (BitVec.ofNat 16 (0xD000 + x.val * 256 + y.val * 16 + n.val)) = .instr (.drw x y n) := by
  have hn : fieldN (BitVec.ofNat 16 (0xD000 + x.val * 256 + y.val * 16 + n.val)) = n :=
    Fin.ext (by rw [fieldN_ofNat]; omega)
  rw [decode_familyD (by rw [fieldOp_ofNat]; omega), fieldX_ofNat_eq (x := x) (by omega),
    fieldY_ofNat_eq (y := y) (by omega), hn]

end Sys2Proof

namespace Sys2Proof.Machine

/-! ### Clearing the display -/

theorem sameBut_setDisplay_advance (s : State) (d : Display) (b : Bool) :
    SameBut [.display, .dirty, .pc] s { s.advance with disp := d, dirty := b } := by
  intro p hp
  cases p
  case display => simp at hp
  case dirty => simp at hp
  case pc => simp at hp
  all_goals simp [Part.same, State.reg]

/-- Settles O31: every one of the 2048 positions is a pixel of the clear display. -/
theorem clearDisplay : Obligations.ClearDisplay :=
  ⟨by decide, fun s => ⟨_, exec_cls s, fun _ => Display.pixel_clear _ _, rfl, s.advance_pc,
    sameBut_setDisplay_advance s _ _⟩⟩

/-! ### The pixels that the raster loop plots -/

/-- A place on the display: its column and its row. -/
abbrev Place := Fin 64 × Fin 32

/-- The places over which the sprite byte `b` of sprite row `row` has a set bit. -/
def rowPlaces (X Y b : Byte) (row : Nat) : List Place :=
  ((List.range 8).filter fun column => b.getLsbD (7 - column)).map fun column => (wrapColumn X column, wrapRow Y row)

/-- The places that the sprite bytes from sprite row `row` on cover, in the order of the raster loop. -/
def spritePlaces (X Y : Byte) : Nat → List Byte → List Place
  | _, [] => []
  | row, b :: rest => rowPlaces X Y b row ++ spritePlaces X Y (row + 1) rest

/-- A set sprite bit over each of the places in turn. -/
def plotPlaces (old : Display) (ps : List Place) (r : Raster) : Raster :=
  ps.foldl (fun r p => plotPixel old p.1 p.2 r) r

theorem plotPlaces_cons (old : Display) (p : Place) (ps : List Place) (r : Raster) :
    plotPlaces old (p :: ps) r = plotPlaces old ps (plotPixel old p.1 p.2 r) := rfl

theorem plotPlaces_append (old : Display) (ps qs : List Place) (r : Raster) :
    plotPlaces old (ps ++ qs) r = plotPlaces old qs (plotPlaces old ps r) :=
  List.foldl_append

theorem plotRow_eq_plotPlaces (old : Display) (X Y b : Byte) (row : Nat) (r : Raster) :
    plotRow old X Y b row r = plotPlaces old (rowPlaces X Y b row) r := by
  simp [plotRow, plotPlaces, rowPlaces, List.foldl_map, List.foldl_filter]

/-- The nested loops of R106 are one loop over the sprite's places. -/
theorem plotRows_eq_plotPlaces (old : Display) (X Y : Byte) (row : Nat) (rows : List Byte) (r : Raster) :
    plotRows old X Y row rows r = plotPlaces old (spritePlaces X Y row rows) r := by
  induction rows generalizing row r with
  | nil => rfl
  | cons b rest ih => rw [plotRows, ih, plotRow_eq_plotPlaces, spritePlaces, plotPlaces_append]

theorem mem_rowPlaces {X Y b : Byte} {row : Nat} {px : Fin 64} {py : Fin 32} :
    (px, py) ∈ rowPlaces X Y b row ↔ ∃ column < 8, b.getLsbD (7 - column) = true ∧
      px.val = (X.toNat + column) % 64 ∧ py.val = (Y.toNat + row) % 32 := by
  simp [rowPlaces, wrapColumn, wrapRow, Fin.ext_iff, and_assoc, eq_comm (b := px.val), eq_comm (b := py.val)]

theorem mem_spritePlaces {X Y : Byte} {row : Nat} {rows : List Byte} {p : Place} :
    p ∈ spritePlaces X Y row rows ↔ ∃ k < rows.length, p ∈ rowPlaces X Y (rows.getD k 0) (row + k) := by
  induction rows generalizing row with
  | nil => simp [spritePlaces]
  | cons b rest ih =>
    rw [spritePlaces, List.mem_append, ih, List.length_cons, Nat.exists_lt_succ_left]
    simp [Nat.add_assoc, Nat.add_comm 1]

/-- The places of the whole sprite are those that R107 describes. -/
theorem mem_spritePlaces_iff_spriteCovers {X Y : Byte} {rows : List Byte} {px : Fin 64} {py : Fin 32} :
    (px, py) ∈ spritePlaces X Y 0 rows ↔ SpriteCovers X Y rows px py := by
  simp only [mem_spritePlaces, mem_rowPlaces, Nat.zero_add, SpriteCovers, exists_and_left]

/-! ### What plotting does to the display and to the collision detector -/

/-- Each plotted place takes the opposite of its pixel in `old`, however often it is plotted; no other changes. -/
theorem plotPlaces_pixel (old : Display) (ps : List Place) (r : Raster) (px : Fin 64) (py : Fin 32) :
    Display.pixel (plotPlaces old ps r).disp px py =
      if (px, py) ∈ ps then !Display.pixel old px py else Display.pixel r.disp px py := by
  induction ps generalizing r with
  | nil => simp [plotPlaces]
  | cons p ps ih =>
    have hplot : Display.pixel (plotPixel old p.1 p.2 r).disp px py =
        if (px, py) = p then !Display.pixel old px py else Display.pixel r.disp px py := by
      rw [plotPixel, Display.pixel_setPixel]
      by_cases hp : (px, py) = p
      · subst hp; simp
      · rw [if_neg hp, if_neg fun h => hp (Prod.ext h.1 h.2)]
    rw [plotPlaces_cons, ih, hplot]
    by_cases hmem : (px, py) ∈ ps <;> simp [hmem]

/-- The collision flag comes on when a plotted place is lit in `old`. -/
theorem plotPlaces_collision (old : Display) (ps : List Place) (r : Raster) :
    (plotPlaces old ps r).collision = (r.collision || ps.any fun p => Display.pixel old p.1 p.2) := by
  induction ps generalizing r with
  | nil => simp [plotPlaces]
  | cons p ps ih => rw [plotPlaces_cons, ih, plotPixel, List.any_cons, Bool.or_assoc]

/-! ### What DRW draws -/

/-- The pixel (px, py) is covered by the sprite that a DRW Vx, Vy, n from the state `s` draws. -/
def State.CoversPixel (s : State) (x y : Reg) (n : Fin 16) (px : Fin 64) (py : Fin 32) : Prop :=
  SpriteCovers (s.reg x) (s.reg y) (Memory.readBytes s.mem s.i.toNat n.val) px py

/-- What a DRW Vx, Vy, n from the state `s` has drawn, when its span lies inside memory. -/
def State.sprite (s : State) (x y : Reg) (n : Fin 16) : Raster :=
  s.drawn x y (Memory.readBytes s.mem s.i.toNat n.val)

theorem State.sprite_eq_plotPlaces (s : State) (x y : Reg) (n : Fin 16) :
    s.sprite x y n = plotPlaces s.disp
      (spritePlaces (s.reg x) (s.reg y) 0 (Memory.readBytes s.mem s.i.toNat n.val)) ⟨s.disp, false⟩ :=
  plotRows_eq_plotPlaces _ _ _ _ _ _

section
variable {s : State} {x y : Reg} {n : Fin 16} {px : Fin 64} {py : Fin 32}

theorem State.sprite_pixel_covered (h : s.CoversPixel x y n px py) :
    Display.pixel (s.sprite x y n).disp px py = !Display.pixel s.disp px py := by
  rw [State.sprite_eq_plotPlaces, plotPlaces_pixel, if_pos (mem_spritePlaces_iff_spriteCovers.mpr h)]

theorem State.sprite_pixel_other (h : ¬ s.CoversPixel x y n px py) :
    Display.pixel (s.sprite x y n).disp px py = Display.pixel s.disp px py := by
  rw [State.sprite_eq_plotPlaces, plotPlaces_pixel, if_neg fun hmem => h (mem_spritePlaces_iff_spriteCovers.mp hmem)]

theorem State.sprite_collision_iff :
    (s.sprite x y n).collision = true ↔
      ∃ (px : Fin 64) (py : Fin 32), Display.pixel s.disp px py = true ∧ s.CoversPixel x y n px py := by
  rw [State.sprite_eq_plotPlaces, plotPlaces_collision, Bool.false_or, List.any_eq_true, Prod.exists]
  simp only [mem_spritePlaces_iff_spriteCovers, and_comm, State.CoversPixel]

end

/-! ### The state after DRW -/

/-- The state after a DRW that does not fault. -/
def State.afterDrw (s : State) (x y : Reg) (n : Fin 16) : State :=
  { s.advance.setReg vf (flagByte (s.sprite x y n).collision) with disp := (s.sprite x y n).disp, dirty := true }

theorem exec_drw_in (x y : Reg) {n : Fin 16} {s : State} (h : n.val = 0 ∨ s.i.toNat + n.val ≤ 0x1000) :
    exec (.drw x y n) s = .next (s.afterDrw x y n) :=
  exec_drw_rows x y (State.spriteRows_in h)

theorem State.afterDrw_reg (s : State) (x y : Reg) (n : Fin 16) (r : Reg) :
    (s.afterDrw x y n).reg r = if r = 15 then flagByte (s.sprite x y n).collision else s.reg r :=
  State.reg_setReg s.advance vf r _

theorem flagByte_eq_one {b : Bool} : flagByte b = 1 ↔ b = true := by
  cases b <;> decide

/-- VF after the DRW is the collision flag. -/
theorem State.afterDrw_vf_eq_one (s : State) (x y : Reg) (n : Fin 16) :
    (s.afterDrw x y n).reg 15 = 1 ↔
      ∃ (px : Fin 64) (py : Fin 32), Display.pixel s.disp px py = true ∧ s.CoversPixel x y n px py := by
  rw [State.afterDrw_reg, if_pos rfl, flagByte_eq_one, State.sprite_collision_iff]

theorem State.afterDrw_vf_eq_zero {s : State} {x y : Reg} {n : Fin 16}
    (h : ¬ ∃ (px : Fin 64) (py : Fin 32), Display.pixel s.disp px py = true ∧ s.CoversPixel x y n px py) :
    (s.afterDrw x y n).reg 15 = 0 := by
  have hc : (s.sprite x y n).collision = false := Bool.eq_false_iff.mpr fun hc => h (State.sprite_collision_iff.mp hc)
  rw [State.afterDrw_reg, if_pos rfl, hc, flagByte, if_neg Bool.false_ne_true]

theorem sameBut_afterDrw (s : State) (x y : Reg) (n : Fin 16) :
    SameBut [.regs, .display, .dirty, .pc] s (s.afterDrw x y n) := by
  intro p hp
  cases p
  case regs => simp at hp
  case display => simp at hp
  case dirty => simp at hp
  case pc => simp at hp
  all_goals simp [Part.same, State.afterDrw]

theorem takesFault_takeFault (s : State) (r : Raised) : TakesFault r.code r.info s (s.takeFault r) := by
  refine ⟨rfl, rfl, rfl, rfl, fun p hp => ?_⟩
  cases p
  case faultRecord => simp at hp
  all_goals simp [Part.same, State.reg]

/-- Settles O33: the raster loop plots the sprite's places one after another, each from the display as it stood before,
so it flips their set and no other pixel. -/
theorem drawFlipsTheSpritePixels : Obligations.DrawFlipsTheSpritePixels := by
  refine fun x y n => ⟨decode_drw x y n, fun s => ⟨fun hspan => ⟨s.afterDrw x y n, exec_drw_in x y hspan, ?_⟩,
    fun hn hspan => ⟨_, exec_drw_out x y hn hspan, takesFault_takeFault s _⟩⟩⟩
  exact ⟨fun px py => ⟨State.sprite_pixel_covered, State.sprite_pixel_other⟩, (s.afterDrw_vf_eq_one x y n).mpr,
    State.afterDrw_vf_eq_zero, fun r hr => by rw [State.afterDrw_reg, if_neg hr], rfl, s.advance_pc,
    sameBut_afterDrw s x y n⟩

/-! ### The second DRW -/

/-- With X and Y as they were, the second DRW covers the same pixels, since I and memory are kept. -/
theorem State.afterDrw_coversPixel {s : State} {x y : Reg} {n : Fin 16}
    (hx : (s.afterDrw x y n).reg x = s.reg x) (hy : (s.afterDrw x y n).reg y = s.reg y) :
    (s.afterDrw x y n).CoversPixel x y n = s.CoversPixel x y n := by
  funext px py
  rw [State.CoversPixel, hx, hy]
  rfl

/-- Settles O34: the second DRW flips back the pixels that the first flipped, and finds lit those that were 0. -/
theorem drawingTwiceRestoresTheDisplay : Obligations.DrawingTwiceRestoresTheDisplay := by
  intro x y n s t hspan hexec hx hy
  obtain rfl : s.afterDrw x y n = t := by simpa [exec_drw_in x y hspan] using hexec
  have hcovers := State.afterDrw_coversPixel hx hy
  refine ⟨(s.afterDrw x y n).afterDrw x y n, exec_drw_in x y hspan, fun px py => ?_, ?_⟩
  · by_cases hc : s.CoversPixel x y n px py
    · calc Display.pixel ((s.afterDrw x y n).sprite x y n).disp px py
          = !Display.pixel (s.sprite x y n).disp px py := State.sprite_pixel_covered (hcovers ▸ hc)
        _ = Display.pixel s.disp px py := by rw [State.sprite_pixel_covered hc, Bool.not_not]
    · calc Display.pixel ((s.afterDrw x y n).sprite x y n).disp px py
          = Display.pixel (s.sprite x y n).disp px py := State.sprite_pixel_other (hcovers ▸ hc)
        _ = Display.pixel s.disp px py := State.sprite_pixel_other hc
  · rw [State.afterDrw_vf_eq_one, hcovers]
    refine exists_congr fun px => exists_congr fun py => and_congr_left fun hc => ?_
    have hpixel : Display.pixel (s.afterDrw x y n).disp px py = !Display.pixel s.disp px py :=
      State.sprite_pixel_covered hc
    rw [hpixel, Bool.not_eq_true']

end Sys2Proof.Machine
end

section
/-!
PROOFS. 45_keys_timers.md R112, R114 and R115: the three timer transfers, each with its encoding, its effect and its
frame; and that no instruction reads ST back, which is said together with DIRTY, the other element of that kind
(10_state.md R19, R22).
-/

namespace Sys2Proof

/-! ### The words of the timer transfers -/

theorem decode_ldVxDT (x : Reg) : decode (BitVec.ofNat 16 (0xF007 + x.val * 256)) = .instr (.ldVxDT x) :=
  decode_familyF_x (kk := 0x07) (by decide) (fun w hkk => by simp [decodeFamilyF, hkk]) x

theorem decode_ldDTVx (x : Reg) : decode (BitVec.ofNat 16 (0xF015 + x.val * 256)) = .instr (.ldDTVx x) :=
  decode_familyF_x (kk := 0x15) (by decide) (fun w hkk => by simp [decodeFamilyF, hkk]) x

theorem decode_ldSTVx (x : Reg) : decode (BitVec.ofNat 16 (0xF018 + x.val * 256)) = .instr (.ldSTVx x) :=
  decode_familyF_x (kk := 0x18) (by decide) (fun w hkk => by simp [decodeFamilyF, hkk]) x

end Sys2Proof

namespace Sys2Proof.Machine

/-! ### A write to a timer -/

theorem sameBut_setDt_advance (s : State) (b : Byte) : SameBut [.delayTimer, .pc] s { s.advance with dt := b } := by
  intro p hp
  cases p
  case delayTimer => simp at hp
  case pc => simp at hp
  all_goals simp [Part.same, State.reg]

theorem sameBut_setSt_advance (s : State) (b : Byte) : SameBut [.soundTimer, .pc] s { s.advance with st := b } := by
  intro p hp
  cases p
  case soundTimer => simp at hp
  case pc => simp at hp
  all_goals simp [Part.same, State.reg]

/-! ### ST and DIRTY are written and never read -/

/-- `s` with other values of ST and DIRTY, the two elements that only the host looks at. -/
def State.withOutputs (s : State) (b : Byte) (d : Bool) : State := { s with st := b, dirty := d }

theorem State.skipIf_withOutputs (s : State) (b : Byte) (d c : Bool) :
    (s.withOutputs b d).advance.skipIf c = (s.advance.skipIf c).withOutputs b d := by
  cases c <;> rfl

/-- On `s`, the instruction `i` has the same effect on every element but ST and DIRTY whatever these two were, and the
same effect on DIRTY when it was the same. -/
def ReadsNoOutput (i : Instr) (s : State) : Prop :=
  ∀ (b : Byte) (d : Bool), ∃ t b' d', exec i s = .next t ∧ exec i (s.withOutputs b d) = .next (t.withOutputs b' d') ∧
    (d = s.dirty → d' = t.dirty)

/-- An instruction reads neither output when its effect on the other elements commutes with replacing them. -/
theorem readsNoOutput_of_commutes {i : Instr} {s t : State} (hexec : exec i s = .next t)
    (hother : ∀ b d, exec i (s.withOutputs b d) = .next (t.withOutputs b d))
    (hdirty : t.dirty = s.dirty := by rfl) : ReadsNoOutput i s :=
  fun b d => ⟨t, b, d, hexec, hother b d, fun h => h.trans hdirty.symm⟩

theorem readsNoOutput_skip {i : Instr} {s : State} {c : Bool} (hexec : exec i s = .next (s.advance.skipIf c))
    (hother : ∀ b d, exec i (s.withOutputs b d) = .next ((s.withOutputs b d).advance.skipIf c)) : ReadsNoOutput i s :=
  readsNoOutput_of_commutes hexec (fun b d => by rw [hother, State.skipIf_withOutputs])
    (by rw [State.skipIf_dirty, State.advance_dirty])

theorem readsNoOutput_call (nnn : Imm12) (s : State) : ReadsNoOutput (.call nnn) s := by
  by_cases h : s.sp.val < 16
  · exact readsNoOutput_of_commutes (exec_call_room nnn h) fun b d =>
      exec_call_room nnn (s := s.withOutputs b d) h
  · have hfull : s.sp.val = 16 := by omega
    exact readsNoOutput_of_commutes (exec_call_full nnn hfull) fun b d =>
      exec_call_full nnn (s := s.withOutputs b d) hfull

theorem readsNoOutput_ret (s : State) : ReadsNoOutput .ret s := by
  by_cases h : s.sp.val = 0
  · exact readsNoOutput_of_commutes (exec_ret_empty h) fun b d => exec_ret_empty (s := s.withOutputs b d) h
  · have hentry : 0 < s.sp.val := by omega
    exact readsNoOutput_of_commutes (exec_ret_entry hentry) fun b d =>
      exec_ret_entry (s := s.withOutputs b d) hentry

theorem readsNoOutput_ldBVx (x : Reg) (s : State) : ReadsNoOutput (.ldBVx x) s := by
  rcases Nat.lt_or_ge Config.memSize (s.i.toNat + 3) with h | h
  · exact readsNoOutput_of_commutes (exec_ldBVx_out x h) fun b d => exec_ldBVx_out x (s := s.withOutputs b d) h
  · exact readsNoOutput_of_commutes (exec_ldBVx_in x h) fun b d => exec_ldBVx_in x (s := s.withOutputs b d) h

theorem readsNoOutput_ldMemVx (x : Reg) (s : State) : ReadsNoOutput (.ldMemVx x) s := by
  rcases Nat.lt_or_ge Config.memSize (s.i.toNat + (x.val + 1)) with h | h
  · exact readsNoOutput_of_commutes (exec_ldMemVx_out x h) fun b d => exec_ldMemVx_out x (s := s.withOutputs b d) h
  · exact readsNoOutput_of_commutes (exec_ldMemVx_in x h) fun b d => exec_ldMemVx_in x (s := s.withOutputs b d) h

theorem readsNoOutput_ldVxMem (x : Reg) (s : State) : ReadsNoOutput (.ldVxMem x) s := by
  rcases Nat.lt_or_ge Config.memSize (s.i.toNat + (x.val + 1)) with h | h
  · exact readsNoOutput_of_commutes (exec_ldVxMem_out x h) fun b d => exec_ldVxMem_out x (s := s.withOutputs b d) h
  · exact readsNoOutput_of_commutes (exec_ldVxMem_in x h) fun b d => exec_ldVxMem_in x (s := s.withOutputs b d) h

/-- DRW sets DIRTY, unless it faults. -/
theorem readsNoOutput_drw (x y : Reg) (n : Fin 16) (s : State) : ReadsNoOutput (.drw x y n) s := by
  by_cases h : n.val = 0 ∨ s.i.toNat + n.val ≤ 0x1000
  · exact fun b d => ⟨_, b, true, exec_drw_in x y h, exec_drw_in x y (s := s.withOutputs b d) h, fun _ => rfl⟩
  · have hn : n.val ≥ 1 := by omega
    have hout : s.i.toNat + n.val > Config.memSize := by rw [Config.memSize]; omega
    exact readsNoOutput_of_commutes (exec_drw_out x y hn hout) fun b d =>
      exec_drw_out x y (s := s.withOutputs b d) hn hout

theorem readsNoOutput_skp (x : Reg) (s : State) : ReadsNoOutput (.skp x) s := by
  by_cases h : (s.reg x).toNat < 16
  · exact readsNoOutput_skip (exec_skp_key h) fun b d => exec_skp_key (s := s.withOutputs b d) h
  · exact readsNoOutput_of_commutes (exec_skp_out h) fun b d => exec_skp_out (s := s.withOutputs b d) h

theorem readsNoOutput_sknp (x : Reg) (s : State) : ReadsNoOutput (.sknp x) s := by
  by_cases h : (s.reg x).toNat < 16
  · exact readsNoOutput_skip (exec_sknp_key h) fun b d => exec_sknp_key (s := s.withOutputs b d) h
  · exact readsNoOutput_of_commutes (exec_sknp_out h) fun b d => exec_sknp_out (s := s.withOutputs b d) h

theorem readsNoOutput_ldVxK (x : Reg) (s : State) : ReadsNoOutput (.ldVxK x) s := by
  cases h : s.lastKeyValid
  case true =>
    exact readsNoOutput_of_commutes (exec_ldVxK_key x h) fun b d => exec_ldVxK_key x (s := s.withOutputs b d) h
  case false =>
    exact readsNoOutput_of_commutes (exec_ldVxK_none x h) fun b d => exec_ldVxK_none x (s := s.withOutputs b d) h

/-- No instruction reads ST or DIRTY. CLS and DRW set DIRTY, LD ST, Vx sets ST, and every other instruction keeps
both. -/
theorem readsNoOutput (i : Instr) (s : State) : ReadsNoOutput i s := by
  cases i with
  | cls => exact fun b d => ⟨_, b, true, exec_cls s, rfl, fun _ => rfl⟩
  | ldSTVx x => exact fun b d => ⟨_, s.reg x, d, exec_ldSTVx x s, rfl, id⟩
  | ret => exact readsNoOutput_ret s
  | call nnn => exact readsNoOutput_call nnn s
  | drw x y n => exact readsNoOutput_drw x y n s
  | ldBVx x => exact readsNoOutput_ldBVx x s
  | ldMemVx x => exact readsNoOutput_ldMemVx x s
  | ldVxMem x => exact readsNoOutput_ldVxMem x s
  | ldVxK x => exact readsNoOutput_ldVxK x s
  | skp x => exact readsNoOutput_skp x s
  | sknp x => exact readsNoOutput_sknp x s
  | seByte x kk => exact readsNoOutput_skip (exec_seByte x kk s) fun _ _ => rfl
  | sneByte x kk => exact readsNoOutput_skip (exec_sneByte x kk s) fun _ _ => rfl
  | seReg x y => exact readsNoOutput_skip (exec_seReg x y s) fun _ _ => rfl
  | sneReg x y => exact readsNoOutput_skip (exec_sneReg x y s) fun _ _ => rfl
  | jp nnn => exact readsNoOutput_of_commutes (exec_jp nnn s) fun _ _ => rfl
  | jpV0 nnn => exact readsNoOutput_of_commutes (exec_jpV0 nnn s) fun _ _ => rfl
  | ldByte x kk => exact readsNoOutput_of_commutes (exec_ldByte x kk s) fun _ _ => rfl
  | addByte x kk => exact readsNoOutput_of_commutes (exec_addByte x kk s) fun _ _ => rfl
  | ldReg x y => exact readsNoOutput_of_commutes (exec_ldReg x y s) fun _ _ => rfl
  | orReg x y => exact readsNoOutput_of_commutes (exec_orReg x y s) fun _ _ => rfl
  | andReg x y => exact readsNoOutput_of_commutes (exec_andReg x y s) fun _ _ => rfl
  | xorReg x y => exact readsNoOutput_of_commutes (exec_xorReg x y s) fun _ _ => rfl
  | addReg x y => exact readsNoOutput_of_commutes (exec_addReg x y s) fun _ _ => rfl
  | subReg x y => exact readsNoOutput_of_commutes (exec_subReg x y s) fun _ _ => rfl
  | subnReg x y => exact readsNoOutput_of_commutes (exec_subnReg x y s) fun _ _ => rfl
  | shr x => exact readsNoOutput_of_commutes (exec_shr x s) fun _ _ => rfl
  | shl x => exact readsNoOutput_of_commutes (exec_shl x s) fun _ _ => rfl
  | rnd x kk => exact readsNoOutput_of_commutes (exec_rnd x kk s) fun _ _ => rfl
  | ldI nnn => exact readsNoOutput_of_commutes (exec_ldI nnn s) fun _ _ => rfl
  | addIVx x => exact readsNoOutput_of_commutes (exec_addIVx x s) fun _ _ => rfl
  | ldFVx x => exact readsNoOutput_of_commutes (exec_ldFVx x s) fun _ _ => rfl
  | ldVxDT x => exact readsNoOutput_of_commutes (exec_ldVxDT x s) fun _ _ => rfl
  | ldDTVx x => exact readsNoOutput_of_commutes (exec_ldDTVx x s) fun _ _ => rfl

/-- With another ST and the same DIRTY, an instruction leaves the same state but for ST. -/
theorem exec_otherSt (i : Instr) (s : State) (b : Byte) :
    ∃ t b', exec i s = .next t ∧ exec i { s with st := b } = .next { t with st := b' } := by
  obtain ⟨t, b', d', hexec, hother, hdirty⟩ := readsNoOutput i s b s.dirty
  obtain rfl : d' = t.dirty := hdirty rfl
  exact ⟨t, b', hexec, hother⟩

/-- Settles O36: each transfer writes its one element after the advance of PC, and no instruction reads ST. -/
theorem timerTransfers : Obligations.TimerTransfers :=
  ⟨fun x => ⟨decode_ldVxDT x, decode_ldDTVx x, decode_ldSTVx x, fun s =>
      ⟨⟨_, exec_ldVxDT x s, writesReg_setReg_advance s x s.dt⟩,
        ⟨_, exec_ldDTVx x s, rfl, s.advance_pc, sameBut_setDt_advance s _⟩,
        ⟨_, exec_ldSTVx x s, rfl, s.advance_pc, sameBut_setSt_advance s _⟩⟩⟩,
    exec_otherSt⟩

end Sys2Proof.Machine
end

section
/-!
PROOFS. 60_exceptions.md R134: the host's acknowledgement that it has rendered the display, its effect and its frame.
-/

namespace Sys2Proof.Machine

theorem sameBut_ackDirty (s : State) : SameBut [.dirty] s s.ackDirty := by
  intro p hp
  cases p
  case dirty => simp at hp
  all_goals simp [Part.same, State.reg]

/-- Settles O54: the operation writes DIRTY alone. -/
theorem ackDirtyClearsDirty : Obligations.AckDirtyClearsDirty := fun font s =>
  ⟨s.ackDirty, Operation.perform_ackDirty font s, s.ackDirty_dirty, sameBut_ackDirty s⟩

end Sys2Proof.Machine
end

section
/-!
PROOFS. 30_encoding.md sections 1 and 2: the words of the remaining instructions, that the encoder and the decoder
agree, and which row of the opcode table a word matches.
-/

namespace Sys2Proof

/-! ### The words of the remaining instructions -/

theorem decode_cls : decode 0x00E0 = .instr .cls := by decide

theorem decode_ret : decode 0x00EE = .instr .ret := by decide

theorem decode_call (nnn : Imm12) : decode (BitVec.ofNat 16 (0x2000 + nnn.toNat)) = .instr (.call nnn) := by
  rw [decode_family2 (by rw [fieldOp_ofNat]; omega), fieldNNN_ofNat_eq (nnn := nnn) (by omega)]

theorem decode_jpV0 (nnn : Imm12) : decode (BitVec.ofNat 16 (0xB000 + nnn.toNat)) = .instr (.jpV0 nnn) := by
  rw [decode_familyB (by rw [fieldOp_ofNat]; omega), fieldNNN_ofNat_eq (nnn := nnn) (by omega)]

theorem decode_rnd (x : Reg) (kk : Byte) :
    decode (BitVec.ofNat 16 (0xC000 + x.val * 256 + kk.toNat)) = .instr (.rnd x kk) := by
  rw [decode_familyC (by rw [fieldOp_ofNat]; omega), fieldX_ofNat_eq (x := x) (by omega),
    fieldKK_ofNat_eq (kk := kk) (by omega)]

theorem decode_addReg (x y : Reg) :
    decode (BitVec.ofNat 16 (0x8004 + x.val * 256 + y.val * 16)) = .instr (.addReg x y) :=
  decode_family8_xy (n := 0x4) (by decide) (fun w hn => by simp [decodeFamily8, hn]) x y

theorem decode_subReg (x y : Reg) :
    decode (BitVec.ofNat 16 (0x8005 + x.val * 256 + y.val * 16)) = .instr (.subReg x y) :=
  decode_family8_xy (n := 0x5) (by decide) (fun w hn => by simp [decodeFamily8, hn]) x y

theorem decode_subnReg (x y : Reg) :
    decode (BitVec.ofNat 16 (0x8007 + x.val * 256 + y.val * 16)) = .instr (.subnReg x y) :=
  decode_family8_xy (n := 0x7) (by decide) (fun w hn => by simp [decodeFamily8, hn]) x y

theorem decode_ldVxK (x : Reg) : decode (BitVec.ofNat 16 (0xF00A + x.val * 256)) = .instr (.ldVxK x) :=
  decode_familyF_x (kk := 0x0A) (by decide) (fun w hkk => by simp [decodeFamilyF, hkk]) x

theorem decode_addIVx (x : Reg) : decode (BitVec.ofNat 16 (0xF01E + x.val * 256)) = .instr (.addIVx x) :=
  decode_familyF_x (kk := 0x1E) (by decide) (fun w hkk => by simp [decodeFamilyF, hkk]) x

theorem decode_ldBVx (x : Reg) : decode (BitVec.ofNat 16 (0xF033 + x.val * 256)) = .instr (.ldBVx x) :=
  decode_familyF_x (kk := 0x33) (by decide) (fun w hkk => by simp [decodeFamilyF, hkk]) x

theorem decode_ldMemVx (x : Reg) : decode (BitVec.ofNat 16 (0xF055 + x.val * 256)) = .instr (.ldMemVx x) :=
  decode_familyF_x (kk := 0x55) (by decide) (fun w hkk => by simp [decodeFamilyF, hkk]) x

theorem decode_ldVxMem (x : Reg) : decode (BitVec.ofNat 16 (0xF065 + x.val * 256)) = .instr (.ldVxMem x) :=
  decode_familyF_x (kk := 0x65) (by decide) (fun w hkk => by simp [decodeFamilyF, hkk]) x

/-- The rows of family E: `i` is the instruction that the low byte `kk` selects. -/
theorem decode_familyE_x {i : Reg → Instr} {kk : Nat} (hlt : kk < 256)
    (hrow : ∀ w, (fieldKK w).toNat = kk → decodeFamilyE w = .instr (i (fieldX w))) (x : Reg) :
    decode (BitVec.ofNat 16 (0xE000 + kk + x.val * 256)) = .instr (i x) := by
  rw [decode_familyE (by rw [fieldOp_ofNat]; omega), hrow _ (by rw [fieldKK_ofNat]; omega),
    fieldX_ofNat_eq (x := x) (by omega)]

theorem decode_skp (x : Reg) : decode (BitVec.ofNat 16 (0xE09E + x.val * 256)) = .instr (.skp x) :=
  decode_familyE_x (kk := 0x9E) (by decide) (fun w hkk => by simp [decodeFamilyE, hkk]) x

theorem decode_sknp (x : Reg) : decode (BitVec.ofNat 16 (0xE0A1 + x.val * 256)) = .instr (.sknp x) :=
  decode_familyE_x (kk := 0xA1) (by decide) (fun w hkk => by simp [decodeFamilyE, hkk]) x

/-! ### Reading an encoded word back -/

/-- An instruction is read back from its word when a word written as the sum of the row's fixed bits and the operand
fields decodes to it. -/
theorem decode_encode_of_sum {i : Instr} {n : Nat} (hd : decode (BitVec.ofNat 16 n) = .instr i)
    (hsum : i.row.fixed.toNat + i.fields.place = n := by
      simp only [Instr.row, Instr.fields, Fields.place, BitVec.reduceToNat, Fin.val_zero]; omega) :
    decode (encode i) = .instr i := by
  rw [encode, hsum, hd]

/-- The decoder reads every instruction back from its word. The encoder writes the y nibble of SHR and SHL as 0. -/
theorem decode_encode (i : Instr) : decode (encode i) = .instr i := by
  cases i with
  | cls => exact decode_cls
  | ret => exact decode_ret
  | jp nnn => exact decode_encode_of_sum (decode_jp nnn)
  | call nnn => exact decode_encode_of_sum (decode_call nnn)
  | seByte x kk => exact decode_encode_of_sum (decode_seByte x kk)
  | sneByte x kk => exact decode_encode_of_sum (decode_sneByte x kk)
  | seReg x y => exact decode_encode_of_sum (decode_seReg x y)
  | ldByte x kk => exact decode_encode_of_sum (decode_ldByte x kk)
  | addByte x kk => exact decode_encode_of_sum (decode_addByte x kk)
  | ldReg x y => exact decode_encode_of_sum (decode_ldReg x y)
  | orReg x y => exact decode_encode_of_sum (decode_orReg x y)
  | andReg x y => exact decode_encode_of_sum (decode_andReg x y)
  | xorReg x y => exact decode_encode_of_sum (decode_xorReg x y)
  | addReg x y => exact decode_encode_of_sum (decode_addReg x y)
  | subReg x y => exact decode_encode_of_sum (decode_subReg x y)
  | shr x => exact decode_encode_of_sum (onlyShiftsIgnoreBits.1 x 0)
  | subnReg x y => exact decode_encode_of_sum (decode_subnReg x y)
  | shl x => exact decode_encode_of_sum (onlyShiftsIgnoreBits.2.1 x 0)
  | sneReg x y => exact decode_encode_of_sum (decode_sneReg x y)
  | ldI nnn => exact decode_encode_of_sum (decode_ldI nnn)
  | jpV0 nnn => exact decode_encode_of_sum (decode_jpV0 nnn)
  | rnd x kk => exact decode_encode_of_sum (decode_rnd x kk)
  | drw x y n => exact decode_encode_of_sum (decode_drw x y n)
  | skp x => exact decode_encode_of_sum (decode_skp x)
  | sknp x => exact decode_encode_of_sum (decode_sknp x)
  | ldVxDT x => exact decode_encode_of_sum (decode_ldVxDT x)
  | ldVxK x => exact decode_encode_of_sum (decode_ldVxK x)
  | ldDTVx x => exact decode_encode_of_sum (decode_ldDTVx x)
  | ldSTVx x => exact decode_encode_of_sum (decode_ldSTVx x)
  | addIVx x => exact decode_encode_of_sum (decode_addIVx x)
  | ldFVx x => exact decode_encode_of_sum (decode_ldFVx x)
  | ldBVx x => exact decode_encode_of_sum (decode_ldBVx x)
  | ldMemVx x => exact decode_encode_of_sum (decode_ldMemVx x)
  | ldVxMem x => exact decode_encode_of_sum (decode_ldVxMem x)

/-- The two bytes of a word, high byte first, make the word (20_memory.md R37). -/
theorem Word.ofBytes_highByte_lowByte (w : Word) : Word.ofBytes w.highByte w.lowByte = w := by
  have hlt := w.isLt
  refine BitVec.eq_of_toNat_eq ?_
  simp only [Word.ofBytes, Word.highByte, Word.lowByte, BitVec.toNat_ofNat]
  omega

/-- The decoder reads every instruction back from its bytes, and leaves the bytes after it. -/
theorem decodeBytes_encodeBytes_append (i : Instr) (rest : List Byte) :
    decodeBytes (encodeBytes i ++ rest) = .ok (i, rest) := by
  simp only [encodeBytes, List.cons_append, List.nil_append, decodeBytes, Word.ofBytes_highByte_lowByte,
    decode_encode]

/-- Settles O1: every row's word, written as the sum of its fixed bits and operand fields, decodes to the row. -/
theorem decodeOfEncodeIsTheInstruction : Obligations.DecodeOfEncodeIsTheInstruction :=
  fun i rest => ⟨decode_encode i, decodeBytes_encodeBytes_append i rest⟩

/-! ### The row a word matches -/

/-- A word that a row accepts has the row's fixed bits in `op` and the lowest `k` bits, which the row's mask selects. -/
theorem Row.selector_of_accepts {r : Row} {w : Word} {k : Nat} (h : r.accepts w = true) (hk : k ≤ 12)
    (hmask : r.mask.toNat = 0xF000 + (2 ^ k - 1)) : r.fixed.toNat = fieldOp w * 4096 + w.toNat % 2 ^ k := by
  rw [Row.accepts, beq_iff_eq] at h
  rw [← toNat_and_mask hk hmask, h]

section
variable {r : Row} {w : Word} (h : r.accepts w = true)
include h

theorem Row.op_of_accepts (hmask : r.mask = 0xF000) : fieldOp w = r.fixed.toNat / 4096 := by
  have hsel := Row.selector_of_accepts (k := 0) h (by decide) (by rw [hmask]; decide)
  omega

theorem Row.op_n_of_accepts (hmask : r.mask = 0xF00F) :
    fieldOp w = r.fixed.toNat / 4096 ∧ (fieldN w).val = r.fixed.toNat % 4096 := by
  have hsel := Row.selector_of_accepts (k := 4) h (by decide) (by rw [hmask]; decide)
  have hn := fieldN_eq w
  omega

theorem Row.op_kk_of_accepts (hmask : r.mask = 0xF0FF) :
    fieldOp w = r.fixed.toNat / 4096 ∧ (fieldKK w).toNat = r.fixed.toNat % 4096 := by
  have hsel := Row.selector_of_accepts (k := 8) h (by decide) (by rw [hmask]; decide)
  have hkk := fieldKK_eq w
  omega

theorem Row.eq_of_accepts (hmask : r.mask = 0xFFFF) : w = r.fixed := by
  have hsel := Row.selector_of_accepts (k := 12) h (by decide) (by rw [hmask]; decide)
  have hop := fieldOp_eq w
  exact BitVec.eq_of_toNat_eq (by omega)

end

/-- The word decodes to an instruction of the row. -/
def Row.Decodes (r : Row) (w : Word) : Prop := ∃ i, decode w = .instr i ∧ i.row = r

section
variable {i : Instr} {w : Word} (h : i.row.accepts w = true)
include h

/-- Rows that `op` alone selects. -/
theorem Instr.decodes_of_op (hmask : i.row.mask = 0xF000) : i.row.Decodes w := by
  have hop := Row.op_of_accepts h hmask
  cases i
  case jp | call | seByte | sneByte | ldByte | addByte | ldI | jpV0 | rnd | drw =>
    simp_all [Instr.row, Row.Decodes, decode_family1, decode_family2, decode_family3, decode_family4, decode_family6,
      decode_family7, decode_familyA, decode_familyB, decode_familyC, decode_familyD]
  all_goals simp [Instr.row] at hmask

/-- Rows that `op` and `n` select: families 5, 8 and 9. -/
theorem Instr.decodes_of_op_n (hmask : i.row.mask = 0xF00F) : i.row.Decodes w := by
  obtain ⟨hop, hn⟩ := Row.op_n_of_accepts h hmask
  cases i
  case seReg => simp_all [Instr.row, Row.Decodes, decode_family5, decodeFamily5]
  case sneReg => simp_all [Instr.row, Row.Decodes, decode_family9, decodeFamily9]
  case ldReg | orReg | andReg | xorReg | addReg | subReg | shr | subnReg | shl =>
    simp_all [Instr.row, Row.Decodes, decode_family8, decodeFamily8]
  all_goals simp [Instr.row] at hmask

/-- Rows that `op` and `kk` select: families E and F. -/
theorem Instr.decodes_of_op_kk (hmask : i.row.mask = 0xF0FF) : i.row.Decodes w := by
  obtain ⟨hop, hkk⟩ := Row.op_kk_of_accepts h hmask
  cases i
  case skp | sknp => simp_all [Instr.row, Row.Decodes, decode_familyE, decodeFamilyE]
  case ldVxDT | ldVxK | ldDTVx | ldSTVx | addIVx | ldFVx | ldBVx | ldMemVx | ldVxMem =>
    simp_all [Instr.row, Row.Decodes, decode_familyF, decodeFamilyF]
  all_goals simp [Instr.row] at hmask

/-- Rows that the whole word selects. -/
theorem Instr.decodes_of_word (hmask : i.row.mask = 0xFFFF) : i.row.Decodes w := by
  obtain rfl := Row.eq_of_accepts h hmask
  cases i
  case cls => exact ⟨_, decode_cls, rfl⟩
  case ret => exact ⟨_, decode_ret, rfl⟩
  all_goals simp [Instr.row] at hmask

/-- A word that the row of an instruction accepts decodes to an instruction of that row. -/
theorem Instr.decodes_of_accepts : i.row.Decodes w := by
  have hmask : i.row.mask = 0xF000 ∨ i.row.mask = 0xF00F ∨ i.row.mask = 0xF0FF ∨ i.row.mask = 0xFFFF := by
    cases i <;> simp [Instr.row]
  rcases hmask with hmask | hmask | hmask | hmask
  · exact decodes_of_op h hmask
  · exact decodes_of_op_n h hmask
  · exact decodes_of_op_kk h hmask
  · exact decodes_of_word h hmask

end

theorem Row.decodes_of_accepts {r : Row} {w : Word} (hr : r ∈ opcodeTable) (h : r.accepts w = true) :
    r.Decodes w := by
  obtain ⟨i, -, rfl⟩ := List.mem_map.mp hr
  exact Instr.decodes_of_accepts h

/-- Settles O4: a word decodes to the row that accepts it, so two rows that accept it are one, since decoding gives one
answer. -/
theorem rowsAreDisjointAndDecodingFollowsThem : Obligations.RowsAreDisjointAndDecodingFollowsThem := by
  refine ⟨fun w r hr q hq hrw hqw => ?_, fun w r hr hrw => Row.decodes_of_accepts hr hrw, fun w i hd =>
    ⟨Instr.row_mem_opcodeTable i, (hasWord_of_decode hd).accepts⟩⟩
  obtain ⟨i, hi, rfl⟩ := Row.decodes_of_accepts hr hrw
  obtain ⟨j, hj, rfl⟩ := Row.decodes_of_accepts hq hqw
  obtain rfl : i = j := by simpa [hi] using hj
  rfl

/-- Settles O5: ten closed computations of the decoder. -/
theorem writtenOutWordsDecode : Obligations.WrittenOutWordsDecode := by
  unfold Obligations.WrittenOutWordsDecode
  decide

end Sys2Proof
end

section
/-!
PROOFS. What one instruction and one STEP can do, said once for all 34: which fault an instruction raises, which
elements and registers it may write when it raises none (10_state.md, 60_exceptions.md R118), and one equation for each
branch of the STEP (40_engine_cycle.md R61). The invariants and the rules about the whole machine follow from these.
-/

namespace Sys2Proof

/-- The elements an instruction may write when it raises no fault (10_state.md sections 1 to 8). -/
def Instr.writes : Instr → List Machine.Part
  | .cls => [.display, .dirty, .pc]
  | .drw _ _ _ => [.regs, .display, .dirty, .pc]
  | .ret | .call _ => [.callStack, .pc]
  | .jp _ | .jpV0 _ | .seByte _ _ | .sneByte _ _ | .seReg _ _ | .sneReg _ _ | .skp _ | .sknp _ => [.pc]
  | .ldByte _ _ | .addByte _ _ | .ldReg _ _ | .orReg _ _ | .andReg _ _ | .xorReg _ _ | .addReg _ _ | .subReg _ _
  | .subnReg _ _ | .shr _ | .shl _ | .ldVxDT _ | .ldVxMem _ => [.regs, .pc]
  | .rnd _ _ => [.regs, .draws, .pc]
  | .ldI _ | .addIVx _ | .ldFVx _ => [.index, .pc]
  | .ldBVx _ | .ldMemVx _ => [.memory, .pc]
  | .ldVxK _ => [.regs, .lastKey, .wait, .pc]
  | .ldDTVx _ => [.delayTimer, .pc]
  | .ldSTVx _ => [.soundTimer, .pc]

/-- The registers an instruction may write: its destination, the block V0 to Vx of Fx65, and VF where it takes a flag
(10_state.md R14, R15). -/
def Instr.WritesReg (r : Reg) : Instr → Prop
  | .ldByte x _ | .addByte x _ | .ldReg x _ | .orReg x _ | .andReg x _ | .xorReg x _ | .rnd x _ | .ldVxDT x
  | .ldVxK x => r = x
  | .addReg x _ | .subReg x _ | .subnReg x _ | .shr x | .shl x => r = x ∨ r = Machine.vf
  | .drw _ _ _ => r = Machine.vf
  | .ldVxMem x => r.val ≤ x.val
  | _ => False

end Sys2Proof

namespace Sys2Proof.Machine

/-! ### The fault an instruction raises -/

/-- The instruction raises the fault in the state `s`: the table of 60_exceptions.md R118. -/
inductive State.Raises (s : State) : Instr → Raised → Prop
  | ret (h : s.sp.val = 0) : s.Raises .ret ⟨.stackUnderflow, 0⟩
  | call (nnn : Imm12) (h : s.sp.val = 16) : s.Raises (.call nnn) ⟨.stackOverflow, 0⟩
  | skp (x : Reg) (h : ¬ (s.reg x).toNat < 16) : s.Raises (.skp x) ⟨.keyRange, zextByte (s.reg x)⟩
  | sknp (x : Reg) (h : ¬ (s.reg x).toNat < 16) : s.Raises (.sknp x) ⟨.keyRange, zextByte (s.reg x)⟩
  | ldBVx (x : Reg) (h : s.i.toNat + 3 > Config.memSize) :
    s.Raises (.ldBVx x) ⟨.memRange, BitVec.ofNat 16 (max s.i.toNat (Config.addrMax + 1))⟩
  | ldMemVx (x : Reg) (h : s.i.toNat + (x.val + 1) > Config.memSize) :
    s.Raises (.ldMemVx x) ⟨.memRange, BitVec.ofNat 16 (max s.i.toNat (Config.addrMax + 1))⟩
  | ldVxMem (x : Reg) (h : s.i.toNat + (x.val + 1) > Config.memSize) :
    s.Raises (.ldVxMem x) ⟨.memRange, BitVec.ofNat 16 (max s.i.toNat (Config.addrMax + 1))⟩
  | drw (x y : Reg) (n : Fin 16) (hn : n.val ≥ 1) (h : s.i.toNat + n.val > Config.memSize) :
    s.Raises (.drw x y n) ⟨.memRange, BitVec.ofNat 16 (max s.i.toNat (Config.addrMax + 1))⟩

/-- An instruction that raises a fault takes it and does nothing else. -/
theorem exec_of_raises {i : Instr} {s : State} {r : Raised} (h : s.Raises i r) :
    exec i s = .next (s.takeFault r) := by
  cases h with
  | ret h => exact exec_ret_empty h
  | call nnn h => exact exec_call_full nnn h
  | skp x h => exact exec_skp_out h
  | sknp x h => exact exec_sknp_out h
  | ldBVx x h => exact exec_ldBVx_out x h
  | ldMemVx x h => exact exec_ldMemVx_out x h
  | ldVxMem x h => exact exec_ldVxMem_out x h
  | drw x y n hn h => exact exec_drw_out x y hn h

/-- A raised fault has a code of its own (60_exceptions.md R118). -/
theorem State.Raises.code_ne_none {i : Instr} {s : State} {r : Raised} (h : s.Raises i r) : r.code ≠ .none := by
  cases h <;> simp

/-! ### What an instruction writes when it raises no fault -/

/-- Two states hold the same data in an element: more than `Part.same` says of the registers, memory and the display. -/
def Part.Unchanged (p : Part) (s t : State) : Prop :=
  match p with
  | .regs => t.v = s.v
  | .memory => t.mem = s.mem
  | .display => t.disp = s.disp
  | p => p.same s t

theorem Part.same_of_unchanged {p : Part} {s t : State} (h : p.Unchanged s t) : p.same s t := by
  cases p
  case regs => exact fun r => by rw [State.reg, State.reg, show t.v = s.v from h]
  case memory => exact fun a => by rw [show t.mem = s.mem from h]
  case display => exact fun px py => by rw [show t.disp = s.disp from h]
  all_goals exact h

/-- The instruction leaves `t` from `s` and writes nothing but its own elements and registers. -/
structure Completes (i : Instr) (s t : State) : Prop where
  unchanged : ∀ p ∉ i.writes, p.Unchanged s t := by
    intro p hp
    cases p <;> simp_all [Instr.writes, Part.Unchanged, Part.same]
  regs : ∀ r : Reg, ¬ i.WritesReg r → t.reg r = s.reg r := by exact fun _ _ => rfl

section
variable {i : Instr} {s : State} {x : Reg} {b : Byte} {f : Bool}

theorem completes_setReg (hw : i.writes = [.regs, .pc]) (hx : i.WritesReg x) :
    Completes i s (s.advance.setReg x b) where
  regs := fun _ hr => State.reg_setReg_other s.advance b fun h => hr (h ▸ hx)

theorem completes_setResultThenFlag (hw : i.writes = [.regs, .pc]) (hx : i.WritesReg x) (hvf : i.WritesReg vf) :
    Completes i s (s.advance.setResultThenFlag x b f) where
  unchanged := by
    intro p hp
    cases p <;> simp_all [Part.Unchanged, Part.same, State.setResultThenFlag]
  regs := fun r hr => by
    have hrx : r ≠ x := fun h => hr (h ▸ hx)
    have hrvf : r ≠ vf := fun h => hr (h ▸ hvf)
    rw [State.reg_setResultThenFlag, if_neg hrvf, if_neg hrx, State.reg_advance]

theorem completes_setFlagThenResult (hw : i.writes = [.regs, .pc]) (hx : i.WritesReg x) (hvf : i.WritesReg vf) :
    Completes i s (s.advance.setFlagThenResult x b f) where
  unchanged := by
    intro p hp
    cases p <;> simp_all [Part.Unchanged, Part.same, State.setFlagThenResult]
  regs := fun r hr => by
    have hrx : r ≠ x := fun h => hr (h ▸ hx)
    have hrvf : r ≠ vf := fun h => hr (h ▸ hvf)
    rw [State.reg_setFlagThenResult, if_neg hrx, if_neg hrvf, State.reg_advance]

theorem completes_skipIf (hw : i.writes = [.pc]) : Completes i s (s.advance.skipIf f) where
  regs := fun r _ => by rw [State.reg_skipIf, State.reg_advance]

end

/-- A block load leaves the registers above it alone. -/
theorem reg_loadBlock_above {x r : Reg} {bytes : List Byte} (s : State) (hlen : bytes.length = x.val + 1)
    (h : ¬ r.val ≤ x.val) : { s.advance with v := loadBlock s.v bytes }.reg r = s.reg r := by
  rw [State.reg, loadBlock_getElem, List.getD_eq_getElem?_getD, List.getElem?_eq_none (by omega)]
  rfl

/-- Every instruction raises a fault, or answers a state in which it has written only its own elements and registers. -/
theorem raises_or_completes (i : Instr) (s : State) :
    (∃ r, s.Raises i r) ∨ ∃ t, exec i s = .next t ∧ Completes i s t := by
  cases i with
  | cls => exact .inr ⟨_, exec_cls s, {}⟩
  | ret =>
    by_cases h : s.sp.val = 0
    · exact .inl ⟨_, .ret h⟩
    · exact .inr ⟨_, exec_ret_entry (by omega), {}⟩
  | jp nnn => exact .inr ⟨_, exec_jp nnn s, {}⟩
  | call nnn =>
    by_cases h : s.sp.val < 16
    · exact .inr ⟨_, exec_call_room nnn h, {}⟩
    · exact .inl ⟨_, .call nnn (by omega)⟩
  | seByte x kk => exact .inr ⟨_, exec_seByte x kk s, completes_skipIf rfl⟩
  | sneByte x kk => exact .inr ⟨_, exec_sneByte x kk s, completes_skipIf rfl⟩
  | seReg x y => exact .inr ⟨_, exec_seReg x y s, completes_skipIf rfl⟩
  | ldByte x kk => exact .inr ⟨_, exec_ldByte x kk s, completes_setReg rfl rfl⟩
  | addByte x kk => exact .inr ⟨_, exec_addByte x kk s, completes_setReg rfl rfl⟩
  | ldReg x y => exact .inr ⟨_, exec_ldReg x y s, completes_setReg rfl rfl⟩
  | orReg x y => exact .inr ⟨_, exec_orReg x y s, completes_setReg rfl rfl⟩
  | andReg x y => exact .inr ⟨_, exec_andReg x y s, completes_setReg rfl rfl⟩
  | xorReg x y => exact .inr ⟨_, exec_xorReg x y s, completes_setReg rfl rfl⟩
  | addReg x y => exact .inr ⟨_, exec_addReg x y s, completes_setResultThenFlag rfl (.inl rfl) (.inr rfl)⟩
  | subReg x y => exact .inr ⟨_, exec_subReg x y s, completes_setFlagThenResult rfl (.inl rfl) (.inr rfl)⟩
  | shr x => exact .inr ⟨_, exec_shr x s, completes_setFlagThenResult rfl (.inl rfl) (.inr rfl)⟩
  | subnReg x y => exact .inr ⟨_, exec_subnReg x y s, completes_setFlagThenResult rfl (.inl rfl) (.inr rfl)⟩
  | shl x => exact .inr ⟨_, exec_shl x s, completes_setFlagThenResult rfl (.inl rfl) (.inr rfl)⟩
  | sneReg x y => exact .inr ⟨_, exec_sneReg x y s, completes_skipIf rfl⟩
  | ldI nnn => exact .inr ⟨_, exec_ldI nnn s, {}⟩
  | jpV0 nnn => exact .inr ⟨_, exec_jpV0 nnn s, {}⟩
  | rnd x kk =>
    exact .inr ⟨_, exec_rnd x kk s, { regs := fun _ hr => State.reg_setReg_other s.advance _ hr }⟩
  | drw x y n =>
    by_cases h : n.val = 0 ∨ s.i.toNat + n.val ≤ Config.memSize
    · exact .inr ⟨_, exec_drw_rows x y (State.spriteRows_in h),
        { regs := fun _ hr => State.reg_setReg_other s.advance _ hr }⟩
    · exact .inl ⟨_, .drw x y n (by omega) (by omega)⟩
  | skp x =>
    by_cases h : (s.reg x).toNat < 16
    · exact .inr ⟨_, exec_skp_key h, completes_skipIf rfl⟩
    · exact .inl ⟨_, .skp x h⟩
  | sknp x =>
    by_cases h : (s.reg x).toNat < 16
    · exact .inr ⟨_, exec_sknp_key h, completes_skipIf rfl⟩
    · exact .inl ⟨_, .sknp x h⟩
  | ldVxDT x => exact .inr ⟨_, exec_ldVxDT x s, completes_setReg rfl rfl⟩
  | ldVxK x =>
    cases h : s.lastKeyValid
    case true => exact .inr ⟨_, exec_ldVxK_key x h, { regs := fun _ hr => State.reg_setReg_other s.advance _ hr }⟩
    case false => exact .inr ⟨_, exec_ldVxK_none x h, {}⟩
  | ldDTVx x => exact .inr ⟨_, exec_ldDTVx x s, {}⟩
  | ldSTVx x => exact .inr ⟨_, exec_ldSTVx x s, {}⟩
  | addIVx x => exact .inr ⟨_, exec_addIVx x s, {}⟩
  | ldFVx x => exact .inr ⟨_, exec_ldFVx x s, {}⟩
  | ldBVx x =>
    rcases Nat.lt_or_ge Config.memSize (s.i.toNat + 3) with h | h
    · exact .inl ⟨_, .ldBVx x h⟩
    · exact .inr ⟨_, exec_ldBVx_in x h, {}⟩
  | ldMemVx x =>
    rcases Nat.lt_or_ge Config.memSize (s.i.toNat + (x.val + 1)) with h | h
    · exact .inl ⟨_, .ldMemVx x h⟩
    · exact .inr ⟨_, exec_ldMemVx_in x h, {}⟩
  | ldVxMem x =>
    rcases Nat.lt_or_ge Config.memSize (s.i.toNat + (x.val + 1)) with h | h
    · exact .inl ⟨_, .ldVxMem x h⟩
    · exact .inr ⟨_, exec_ldVxMem_in x h,
        { regs := fun _ hr => reg_loadBlock_above s (Memory.readBytes_length _ _ _) hr }⟩

/-- The one inversion of `exec`: what it answers is the fault it raises, taken, or a completion. -/
theorem exec_cases {i : Instr} {s t : State} (h : exec i s = .next t) :
    (∃ r, s.Raises i r ∧ t = s.takeFault r) ∨ Completes i s t := by
  rcases raises_or_completes i s with ⟨r, hr⟩ | ⟨u, hu, hc⟩
  · exact .inl ⟨r, hr, by simpa [exec_of_raises hr] using h.symm⟩
  · obtain rfl : u = t := by simpa [hu] using h
    exact .inr hc

theorem faultRecord_not_mem_writes (i : Instr) : .faultRecord ∉ i.writes := by
  cases i <;> simp [Instr.writes]

theorem Completes.faultRecord_same {i : Instr} {s t : State} (h : Completes i s t) : Part.faultRecord.same s t :=
  h.unchanged .faultRecord (faultRecord_not_mem_writes i)

/-- Every instruction on every state answers a next state (log 3). -/
theorem exec_total (i : Instr) (s : State) : ∃ t, exec i s = .next t := by
  rcases raises_or_completes i s with ⟨r, hr⟩ | ⟨t, ht, -⟩
  · exact ⟨_, exec_of_raises hr⟩
  · exact ⟨t, ht⟩

/-! ### The branches of the STEP -/

section
variable {s : State}

theorem step_of_faulted (hf : s.faulted = true) : step s = .next s := by
  simp [step, engineStep, hf]

theorem step_of_waiting (hf : s.faulted = false) (hw : s.wait = true) : step s = .next (waitPoll s) := by
  simp [step, engineStep, hf, hw]

theorem step_of_fetch_error {r : Raised} (hf : s.faulted = false) (hw : s.wait = false) (h : fetch s = .error r) :
    step s = .next (s.takeFault r) := by
  simp [step, engineStep, hf, hw, h]

theorem step_of_instr {w : Word} {i : Instr} (hf : s.faulted = false) (hw : s.wait = false) (h : fetch s = .ok w)
    (hd : decode w = .instr i) : step s = exec i s := by
  simp [step, engineStep, hf, hw, h, runWord, hd]

/-- A STEP that would run an instruction is that instruction's effect. -/
theorem RunsNext.step_eq {i : Instr} (h : RunsNext i s) : step s = exec i s := by
  obtain ⟨hf, hw, w, hfetch, hd⟩ := h
  exact step_of_instr hf hw hfetch hd

end

theorem waitPoll_faulted (s : State) : (waitPoll s).faulted = s.faulted := by
  rw [waitPoll]
  split <;> rfl

theorem waitPoll_disp (s : State) : (waitPoll s).disp = s.disp := by
  rw [waitPoll]
  split <;> rfl

/-- Every STEP answers a next state. -/
theorem step_total (s : State) : ∃ t, step s = .next t := by
  cases hf : s.faulted
  case true => exact ⟨_, step_of_faulted hf⟩
  case false =>
    cases hw : s.wait
    case true => exact ⟨_, step_of_waiting hf hw⟩
    case false =>
      cases hfetch : fetch s with
      | error r => exact ⟨_, step_of_fetch_error hf hw hfetch⟩
      | ok w =>
        cases hd : decode w with
        | unknown u => exact ⟨_, step_unknown hf hw hfetch hd⟩
        | instr i => rw [step_of_instr hf hw hfetch hd]; exact exec_total i s

end Sys2Proof.Machine
end

section
/-!
PROOFS. The invariants of the engine (10_state.md R17, R25, R26; 60_exceptions.md R117): canonical memory, the fault
record and the wait state hold after RESET, and every STEP and every other operation of the host keeps them.
-/

namespace Sys2Proof.Machine

/-! ### The invariant -/

theorem memory_mem_writes {i : Instr} : .memory ∈ i.writes ↔ ∃ x, i = .ldBVx x ∨ i = .ldMemVx x := by
  cases i <;> simp [Instr.writes]

/-- Every instruction keeps memory in canonical form: a store lies inside memory or faults. -/
theorem exec_keeps_mem_wf {i : Instr} {s t : State} (hwf : Memory.wf s.mem) (h : exec i s = .next t) :
    Memory.wf t.mem := by
  rcases exec_cases h with ⟨r, -, rfl⟩ | hc
  · exact hwf
  by_cases hmem : .memory ∈ i.writes
  · obtain ⟨x, rfl | rfl⟩ := memory_mem_writes.mp hmem
    · rcases Nat.lt_or_ge Config.memSize (s.i.toNat + 3) with hout | hin
      · rw [exec_ldBVx_out x hout] at h
        cases h
        exact hwf
      · rw [exec_ldBVx_in x hin] at h
        cases h
        exact Memory.writeBytes_wf _ hwf hin
    · rcases Nat.lt_or_ge Config.memSize (s.i.toNat + (x.val + 1)) with hout | hin
      · rw [exec_ldMemVx_out x hout] at h
        cases h
        exact hwf
      · rw [exec_ldMemVx_in x hin] at h
        cases h
        exact Memory.writeBytes_wf _ hwf (by rwa [State.block_length])
  · rwa [show t.mem = s.mem from hc.unchanged .memory hmem]

/-- A step without a fault keeps the invariant when it keeps canonical memory and the record. -/
theorem inv_of_faultRecord_same {s t : State} (h : Inv s) (hf : s.faulted = false) (hwf : Memory.wf t.mem)
    (hrec : Part.faultRecord.same s t) : Inv t := by
  obtain ⟨-, ⟨hnone, -⟩, -⟩ := h
  obtain ⟨hfaulted, hcode, hpc, hinfo⟩ := hrec
  rw [hf] at hfaulted
  refine ⟨hwf, ⟨fun _ => ?_, fun ht => ?_⟩, fun ht => ?_⟩
  · rw [hcode, hpc, hinfo]
    exact hnone hf
  all_goals
    rw [hfaulted] at ht
    contradiction

/-- Taking a fault keeps the invariant. -/
theorem inv_takeFault {s : State} {r : Raised} (h : Inv s) (hw : s.wait = false) (hcode : r.code ≠ .none) :
    Inv (s.takeFault r) := by
  refine ⟨h.1, ⟨fun hf => ?_, fun _ => ⟨hcode, rfl⟩⟩, fun _ => hw⟩
  rw [State.takeFault_faulted] at hf
  contradiction

theorem fetch_error_code {s : State} {r : Raised} (h : fetch s = .error r) : r.code = .fetchRange := by
  rcases Nat.lt_or_ge Config.addrMax (s.pc.toNat + 1) with hout | hin
  · rw [fetch_out hout] at h
    cases h
    rfl
  · rw [fetch_in hin] at h
    contradiction

theorem inv_waitPoll {s : State} (h : Inv s) (hf : s.faulted = false) : Inv (waitPoll s) := by
  cases hkey : s.lastKeyValid
  case false => rwa [waitPoll_none hkey]
  case true =>
    rw [waitPoll_key hkey]
    exact inv_of_faultRecord_same h hf h.1 ⟨rfl, rfl, rfl, rfl⟩

theorem inv_exec {i : Instr} {s t : State} (h : Inv s) (hf : s.faulted = false) (hw : s.wait = false)
    (hexec : exec i s = .next t) : Inv t := by
  rcases exec_cases hexec with ⟨r, hr, rfl⟩ | hc
  · exact inv_takeFault h hw hr.code_ne_none
  · exact inv_of_faultRecord_same h hf (exec_keeps_mem_wf h.1 hexec) hc.faultRecord_same

/-- Settles O41: each branch of the STEP keeps the fault record of an engine that is not faulted, or takes a fault with
a code of its own. -/
theorem stepKeepsTheInvariant : Obligations.StepKeepsTheInvariant := by
  intro s t h hstep
  rcases step_cases hstep with ⟨-, rfl⟩ | ⟨hf, -, rfl⟩ | ⟨hf, hw, r, hfetch, rfl⟩ | ⟨hf, -, w, u, -, -, rfl⟩ |
    ⟨hf, hw, w, i, -, -, hexec⟩
  · exact h
  · exact inv_waitPoll h hf
  · exact inv_takeFault h hw (by rw [fetch_error_code hfetch]; decide)
  · exact inv_of_faultRecord_same h hf h.1 ⟨rfl, rfl, rfl, rfl⟩
  · exact inv_exec h hf hw hexec

/-! ### Every reachable state -/

theorem inv_resetOf (font : Font) : Inv (State.resetOf font) :=
  ⟨State.resetOf_mem_wf font, ⟨fun _ => ⟨rfl, rfl, rfl⟩, fun h => (nomatch h)⟩, fun _ => rfl⟩

theorem inv_load {s : State} (h : Inv s) (bytes : List Byte) : Inv (s.load bytes) := by
  rcases Nat.lt_or_ge Config.progMax bytes.length with hlong | hfits
  · rwa [State.load_tooLarge s hlong]
  · obtain ⟨hwf, hrec, hwait⟩ := h
    rw [State.load_fits s hfits]
    refine ⟨Memory.writeBytes_wf bytes hwf ?_, hrec, hwait⟩
    simp only [Config.progBase, Config.progMax, Config.memSize] at *
    omega

/-- Every operation of the host keeps the invariant. -/
theorem inv_perform {font : Font} {op : Operation} {s t : State} (h : Inv s) (hop : op.perform font s = .next t) :
    Inv t := by
  cases op with
  | step => exact stepKeepsTheInvariant s t h hop
  | load bytes => cases hop; exact inv_load h bytes
  | reset => cases hop; exact inv_resetOf font
  | tick => cases hop; exact h
  | setKey k b => cases hop; exact h
  | setLastKey k => cases hop; exact h
  | clearLastKey => cases hop; exact h
  | ackDirty => cases hop; exact h

/-- What every operation keeps, every run keeps. -/
theorem performAll_keeps {P : State → Prop} {font : Font}
    (hop : ∀ (op : Operation) (s t : State), P s → op.perform font s = .next t → P t) (ops : List Operation)
    {s t : State} (hs : P s) (h : performAll font ops s = .next t) : P t := by
  induction ops generalizing s with
  | nil => cases h; exact hs
  | cons op rest ih =>
    rw [performAll] at h
    split at h
    next u hu => exact ih (hop op s u hs hu) h
    next => contradiction
    next => contradiction

/-- Settles O43: RESET brings the invariant about, and LOAD, STEP and the others keep it. -/
theorem everyReachableStateMeetsTheInvariant : Obligations.EveryReachableStateMeetsTheInvariant :=
  ⟨fun _ _ _ _ h hop => inv_perform h hop, fun font _ ⟨ops, hrun⟩ =>
    performAll_keeps (fun _ _ _ h hop => inv_perform h hop) ops (inv_resetOf font) hrun⟩

/-! ### The wait state -/

theorem wait_mem_writes {i : Instr} : .wait ∈ i.writes ↔ ∃ x, i = .ldVxK x := by
  cases i <;> simp [Instr.writes]

/-- An instruction that leaves the engine waiting is an Fx0A that found no key. -/
theorem exec_begins_wait {i : Instr} {s t : State} (hw : s.wait = false) (h : exec i s = .next t)
    (ht : t.wait = true) : ∃ x, i = .ldVxK x ∧ t = { s with wait := true, waitX := x } := by
  have hne : ¬ t.wait = s.wait := by rw [ht, hw]; decide
  rcases exec_cases h with ⟨r, -, rfl⟩ | hc
  · exact absurd rfl hne
  have hmem : .wait ∈ i.writes := Decidable.byContradiction fun hmem => hne (hc.unchanged .wait hmem).1
  obtain ⟨x, rfl⟩ := wait_mem_writes.mp hmem
  refine ⟨x, rfl, ?_⟩
  by_cases hkey : s.lastKeyValid = true
  · rw [exec_ldVxK_key x hkey] at h
    cases h
    exact absurd rfl hne
  · rw [exec_ldVxK_none x (Bool.eq_false_iff.mpr hkey)] at h
    cases h
    rfl

/-- Settles O44: a wait begins at the Fx0A that the STEP ran, which leaves PC and memory alone, and a poll without a key
changes nothing. -/
theorem stepKeepsTheWaitOnItsInstruction : Obligations.StepKeepsTheWaitOnItsInstruction := by
  intro s t h hstep hwait
  rcases step_cases hstep with ⟨-, rfl⟩ | ⟨-, -, rfl⟩ | ⟨-, hw, r, -, rfl⟩ | ⟨-, hw, w, u, -, -, rfl⟩ |
    ⟨-, hw, w, i, hfetch, hd, hexec⟩
  · exact h hwait
  · cases hkey : s.lastKeyValid
    case false => rw [waitPoll_none hkey] at hwait ⊢; exact h hwait
    case true => rw [waitPoll_key hkey] at hwait; contradiction
  · exact absurd (hwait.symm.trans hw) (by decide)
  · exact absurd (hwait.symm.trans hw) (by decide)
  · obtain ⟨x, rfl, rfl⟩ := exec_begins_wait hw hexec hwait
    exact ⟨w, hfetch, hd⟩

/-! ### The recorded fault -/

/-- A STEP of an engine that is not faulted ends faulted only by taking a fault. -/
theorem step_faults {s t : State} (hf : s.faulted = false) (h : step s = .next t) (ht : t.faulted = true) :
    ∃ r, t = s.takeFault r := by
  have hne : ¬ t.faulted = s.faulted := by rw [ht, hf]; decide
  rcases step_cases h with ⟨-, rfl⟩ | ⟨-, -, rfl⟩ | ⟨-, -, r, -, rfl⟩ | ⟨-, -, w, u, -, -, rfl⟩ |
    ⟨-, -, w, i, -, -, hexec⟩
  · exact absurd rfl hne
  · exact absurd (waitPoll_faulted s) hne
  · exact ⟨r, rfl⟩
  · exact absurd rfl hne
  · rcases exec_cases hexec with ⟨r, -, rfl⟩ | hc
    · exact ⟨r, rfl⟩
    · exact absurd hc.faultRecord_same.1 hne

/-- Clearing the record undoes taking a fault, when the record was empty. -/
theorem withoutFault_takeFault {s : State} (r : Raised) (hf : s.faulted = false) (hrec : FaultRecordConsistent s) :
    (s.takeFault r).withoutFault = s := by
  have hnone := hrec.1 hf
  cases s
  simp_all [State.withoutFault, State.takeFault]

/-- Settles O45: the state before the fault is the one after it with the record cleared. -/
theorem stepKeepsTheFaultOfPc : Obligations.StepKeepsTheFaultOfPc := by
  intro s t hinv h hstep ht
  cases hf : s.faulted
  case true =>
    obtain rfl : s = t := by simpa [step_of_faulted hf] using hstep
    exact h hf
  case false =>
    obtain ⟨-, hrec, -⟩ := hinv
    obtain ⟨r, rfl⟩ := step_faults hf hstep ht
    rw [withoutFault_takeFault r hf hrec, hstep]

/-! ### The state after RESET -/

/-- Settles O42: the reset state neither waits nor is faulted. -/
theorem resetMeetsTheInvariants : Obligations.ResetMeetsTheInvariants :=
  ⟨State.resetOf_default ▸ inv_resetOf Config.font, fun h => (nomatch h), fun h => (nomatch h)⟩

end Sys2Proof.Machine
end

section
/-!
PROOFS. 40_engine_cycle.md section 1 and the rules about the whole machine: what a STEP does, which instruction faults
and where (60_exceptions.md R117, R118), which elements and registers an instruction may change (10_state.md, 44_display.md
R108), what no STEP reads, and which states stay (70_reset_and_hazards.md R152).
-/

namespace Sys2Proof.Machine

/-! ### The STEP operation -/

/-- Settles O6: the fetched word is the two bytes at PC. -/
theorem stepRunsTheDecodedInstruction : Obligations.StepRunsTheDecodedInstruction :=
  fun _ _ hf hw hpc hd => step_of_instr hf hw (fetch_in hpc) hd

theorem sameBut_waitPoll_key (s : State) (b : Byte) (x : Reg) :
    SameBut [.regs, .pc, .lastKey, .wait] s
      { s.setReg x b with lastKeyValid := false, wait := false, pc := s.pc + 2 } := by
  intro p hp
  cases p <;> simp_all [Part.same]

/-- Settles O8: the fault gate comes first, and the wait gate polls for a key. -/
theorem gatesOfTheStep : Obligations.GatesOfTheStep := by
  refine fun s => ⟨step_of_faulted, fun hf hw hkey => ?_, fun hf hw hkey => ⟨_, step_of_waiting hf hw, ?_⟩⟩
  · rw [step_of_waiting hf hw, waitPoll_none hkey]
  · rw [waitPoll_key hkey]
    exact ⟨rfl, fun r => State.reg_setReg s s.waitX r _, rfl, rfl, rfl, sameBut_waitPoll_key s _ _⟩

theorem step_fetch_out {s : State} (hf : s.faulted = false) (hw : s.wait = false) (hpc : s.pc.toNat + 1 > 0xFFF) :
    ∃ t, step s = .next t ∧ TakesFault .fetchRange (if s.pc.toNat > 0xFFF then s.pc else s.pc + 1) s t :=
  ⟨_, step_of_fetch_error hf hw (fetch_out hpc), takesFault_takeFault s _⟩

/-- Settles O9: the fetch raises the fault, and the STEP takes it. -/
theorem fetchPastMemoryFaults : Obligations.FetchPastMemoryFaults :=
  fun _ hf hw hpc => step_fetch_out hf hw hpc

/-- Settles O10: each branch of the STEP and each instruction answers a state. -/
theorem everyStepAnswersAState : Obligations.EveryStepAnswersAState :=
  ⟨step_total, exec_total⟩

/-! ### Faults -/

/-- An instruction leaves an engine that was not faulted faulted exactly when it raises a fault. -/
theorem exec_faulted_iff_raises {i : Instr} {s t : State} (hf : s.faulted = false) (h : exec i s = .next t) :
    t.faulted = true ↔ ∃ r, s.Raises i r := by
  refine ⟨fun ht => ?_, fun ⟨r, hr⟩ => ?_⟩
  · rcases exec_cases h with ⟨r, hr, -⟩ | hc
    · exact ⟨r, hr⟩
    · exact absurd (hc.faultRecord_same.1.symm.trans ht) (by rw [hf]; decide)
  · rw [exec_of_raises hr] at h
    cases h
    rfl

/-- Settles O39: an instruction that faults has raised a fault, which it takes, and nothing else. -/
theorem faultsArePrecise : Obligations.FaultsArePrecise := by
  intro i s t hf h ht
  obtain ⟨r, hr⟩ := (exec_faulted_iff_raises hf h).mp ht
  obtain rfl : s.takeFault r = t := by simpa [exec_of_raises hr] using h
  obtain ⟨-, -, hpc, -, hsame⟩ := takesFault_takeFault s r
  exact ⟨hr.code_ne_none, hpc, hsame⟩

/-- Settles O40: the rows of the fault table are the cases in which an instruction raises one. -/
theorem faultsExactlyWhere : Obligations.FaultsExactlyWhere := by
  intro i s t hf h
  rw [exec_faulted_iff_raises hf h]
  clear hf h
  constructor
  · rintro ⟨r, hr⟩
    cases hr with
    | call nnn h => exact .inl ⟨nnn, rfl, h⟩
    | ret h => exact .inr (.inl ⟨rfl, h⟩)
    | skp x h => exact .inr (.inr (.inl ⟨x, .inl rfl, by omega⟩))
    | sknp x h => exact .inr (.inr (.inl ⟨x, .inr rfl, by omega⟩))
    | ldBVx x h => exact .inr (.inr (.inr (.inl ⟨x, rfl, by simp only [Config.memSize] at h; omega⟩)))
    | ldMemVx x h => exact .inr (.inr (.inr (.inr (.inl ⟨x, .inl rfl, by simp only [Config.memSize] at h; omega⟩))))
    | ldVxMem x h => exact .inr (.inr (.inr (.inr (.inl ⟨x, .inr rfl, by simp only [Config.memSize] at h; omega⟩))))
    | drw x y n hn h =>
      exact .inr (.inr (.inr (.inr (.inr ⟨x, y, n, rfl, hn, by simp only [Config.memSize] at h; omega⟩))))
  · rintro (⟨nnn, rfl, h⟩ | ⟨rfl, h⟩ | ⟨x, rfl | rfl, h⟩ | ⟨x, rfl, h⟩ | ⟨x, rfl | rfl, h⟩ | ⟨x, y, n, rfl, hn, h⟩)
    · exact ⟨_, .call nnn h⟩
    · exact ⟨_, .ret h⟩
    · exact ⟨_, .skp x (by omega)⟩
    · exact ⟨_, .sknp x (by omega)⟩
    · exact ⟨_, .ldBVx x (by simp only [Config.memSize]; omega)⟩
    · exact ⟨_, .ldMemVx x (by simp only [Config.memSize]; omega)⟩
    · exact ⟨_, .ldVxMem x (by simp only [Config.memSize]; omega)⟩
    · exact ⟨_, .drw x y n hn (by simp only [Config.memSize]; omega)⟩

/-! ### Which instruction changes what -/

/-- An element other than the fault record changes only under an instruction that may write it, fault or none. -/
theorem exec_unchanged_or_writes {i : Instr} {s t : State} (h : exec i s = .next t) (p : Part)
    (hp : p ≠ .faultRecord := by decide) : p.Unchanged s t ∨ p ∈ i.writes := by
  rcases exec_cases h with ⟨r, -, rfl⟩ | hc
  · left
    cases p <;> simp_all [Part.Unchanged, Part.same]
  · by_cases hmem : p ∈ i.writes
    · exact .inr hmem
    · exact .inl (hc.unchanged p hmem)

section
variable {i : Instr}

theorem keys_not_mem_writes : .keys ∉ i.writes := by
  cases i <;> simp [Instr.writes]

theorem delayTimer_mem_writes : .delayTimer ∈ i.writes ↔ ∃ x, i = .ldDTVx x := by
  cases i <;> simp [Instr.writes]

theorem soundTimer_mem_writes : .soundTimer ∈ i.writes ↔ ∃ x, i = .ldSTVx x := by
  cases i <;> simp [Instr.writes]

theorem index_mem_writes : .index ∈ i.writes ↔ (∃ nnn, i = .ldI nnn) ∨ ∃ x, i = .addIVx x ∨ i = .ldFVx x := by
  cases i <;> simp [Instr.writes]

theorem callStack_mem_writes : .callStack ∈ i.writes ↔ i = .ret ∨ ∃ nnn, i = .call nnn := by
  cases i <;> simp [Instr.writes]

theorem display_mem_writes : .display ∈ i.writes ↔ i = .cls ∨ ∃ x y n, i = .drw x y n := by
  cases i <;> simp [Instr.writes]

theorem dirty_mem_writes : .dirty ∈ i.writes ↔ .display ∈ i.writes := by
  cases i <;> simp [Instr.writes]

theorem lastKey_mem_writes : .lastKey ∈ i.writes ↔ .wait ∈ i.writes := by
  cases i <;> simp [Instr.writes]

end

/-- Settles O46: an element changes only under an instruction that lists it among its writes. -/
theorem onlyTheNamedInstructionsChangeIt : Obligations.OnlyTheNamedInstructionsChangeIt := by
  intro i s t h
  have hchange := fun p hp => exec_unchanged_or_writes h p hp
  refine ⟨(hchange .keys (by decide)).resolve_right keys_not_mem_writes,
    (hchange .delayTimer (by decide)).imp_right delayTimer_mem_writes.mp,
    (hchange .soundTimer (by decide)).imp_right soundTimer_mem_writes.mp,
    (hchange .index (by decide)).imp_right index_mem_writes.mp,
    (hchange .callStack (by decide)).imp_right callStack_mem_writes.mp,
    (hchange .memory (by decide)).imp_right memory_mem_writes.mp, ?_, ?_⟩
  · rw [← display_mem_writes]
    rcases hchange .display (by decide) with hdisp | hmem
    · exact (hchange .dirty (by decide)).imp (⟨hdisp, ·⟩) dirty_mem_writes.mp
    · exact .inr hmem
  · rw [← wait_mem_writes]
    rcases hchange .wait (by decide) with ⟨hwait, hx⟩ | hmem
    · exact (hchange .lastKey (by decide)).imp (fun ⟨hvalid, hval⟩ => ⟨hvalid, hval, hwait, hx⟩) lastKey_mem_writes.mp
    · exact .inr hmem

theorem exec_writesReg {i : Instr} {s t : State} {r : Reg} (h : exec i s = .next t) (hr : t.reg r ≠ s.reg r) :
    i.WritesReg r := by
  rcases exec_cases h with ⟨f, -, rfl⟩ | hc
  · exact absurd (State.reg_takeFault s f r) hr
  · exact Classical.byContradiction fun hw => hr (hc.regs r hw)

/-- Settles O47: the registers an instruction may write are its destination, its block, and VF for its flag. -/
theorem onlyNamedRegistersChange : Obligations.OnlyNamedRegistersChange := by
  intro i s t r h hr
  have hw := exec_writesReg h hr
  clear h hr
  cases i
  case addReg | subReg | subnReg | shr | shl => rcases hw with rfl | rfl <;> simp [vf]
  all_goals simp_all [Instr.WritesReg, vf]

/-! ### The display -/

/-- An instruction that changes the display sets DIRTY. -/
theorem exec_disp_dirty {i : Instr} {s t : State} (h : exec i s = .next t) (hd : t.disp ≠ s.disp) :
    (i = .cls ∨ ∃ x y n, i = .drw x y n) ∧ t.dirty = true := by
  have hi := display_mem_writes.mp ((exec_unchanged_or_writes h .display).resolve_left hd)
  refine ⟨hi, ?_⟩
  rcases hi with rfl | ⟨x, y, n, rfl⟩
  · cases h
    rfl
  · by_cases hspan : n.val = 0 ∨ s.i.toNat + n.val ≤ 0x1000
    · rw [exec_drw_in x y hspan] at h
      cases h
      rfl
    · rw [exec_drw_out x y (by omega) (by simp only [Config.memSize]; omega)] at h
      cases h
      exact absurd rfl hd

/-- A STEP that changes the display sets DIRTY. -/
theorem step_disp_dirty {s t : State} (h : step s = .next t) (hd : t.disp ≠ s.disp) : t.dirty = true := by
  rcases step_cases h with ⟨-, rfl⟩ | ⟨-, -, rfl⟩ | ⟨-, -, r, -, rfl⟩ | ⟨-, -, w, u, -, -, rfl⟩ |
    ⟨-, -, w, i, -, -, hexec⟩
  · exact absurd rfl hd
  · exact absurd (waitPoll_disp s) hd
  · exact absurd rfl hd
  · exact absurd rfl hd
  · exact (exec_disp_dirty hexec hd).2

theorem load_disp_dirty {s : State} {bytes : List Byte} (hd : (s.load bytes).disp ≠ s.disp) :
    (s.load bytes).dirty = true := by
  rcases Nat.lt_or_ge Config.progMax bytes.length with hlong | hfits
  · rw [State.load_tooLarge s hlong] at hd
    exact absurd rfl hd
  · rw [State.load_fits s hfits]

/-- An operation of the host that changes the display is STEP, RESET or LOAD, and sets DIRTY. -/
theorem perform_disp_dirty {font : Font} {op : Operation} {s t : State} (h : op.perform font s = .next t)
    (hd : t.disp ≠ s.disp) : (op = .step ∨ op = .reset ∨ ∃ bytes, op = .load bytes) ∧ t.dirty = true := by
  cases op with
  | step => exact ⟨.inl rfl, step_disp_dirty h hd⟩
  | reset => cases h; exact ⟨.inr (.inl rfl), rfl⟩
  | load bytes => cases h; exact ⟨.inr (.inr ⟨bytes, rfl⟩), load_disp_dirty hd⟩
  | tick => cases h; exact absurd rfl hd
  | setKey k b => cases h; exact absurd rfl hd
  | setLastKey k => cases h; exact absurd rfl hd
  | clearLastKey => cases h; exact absurd rfl hd
  | ackDirty => cases h; exact absurd rfl hd

theorem exec_drw_sets_dirty (x y : Reg) (n : Fin 16) (s : State) :
    ∃ t, exec (.drw x y n) s = .next t ∧ (t.faulted = false → t.dirty = true) := by
  by_cases hspan : n.val = 0 ∨ s.i.toNat + n.val ≤ 0x1000
  · exact ⟨_, exec_drw_in x y hspan, fun _ => rfl⟩
  · refine ⟨_, exec_drw_out x y (by omega) (by simp only [Config.memSize]; omega), fun h => ?_⟩
    rw [State.takeFault_faulted] at h
    contradiction

theorem load_sets_dirty (bytes : List Byte) (s : State) (h : (Operation.load bytes).reply = .ok) :
    (s.load bytes).dirty = true := by
  have hfits : bytes.length ≤ Config.progMax := Nat.le_of_not_lt fun hlong => by
    rw [Operation.reply, if_pos hlong] at h
    contradiction
  rw [State.load_fits s hfits]

/-- Settles O32: CLS and DRW alone list the display among their writes, RESET and LOAD replace it, and all four set
DIRTY. -/
theorem displayChangesOnlyWithDirty : Obligations.DisplayChangesOnlyWithDirty :=
  ⟨fun _ _ _ h hd => exec_disp_dirty h hd, fun _ _ _ _ h hd => perform_disp_dirty h hd,
    fun s => ⟨_, exec_cls s, rfl⟩, fun x y n s _ => exec_drw_sets_dirty x y n s,
    fun font s => ⟨_, Operation.perform_reset font s, rfl⟩,
    fun font bytes s => ⟨_, Operation.perform_load font bytes s, load_sets_dirty bytes s⟩,
    fun font s => ⟨_, Operation.perform_ackDirty font s, rfl⟩⟩

/-! ### What no STEP reads -/

theorem waitPoll_withOutputs (s : State) (b : Byte) (d : Bool) :
    waitPoll (s.withOutputs b d) = (waitPoll s).withOutputs b d := by
  cases hkey : s.lastKeyValid
  case false => rw [waitPoll_none hkey, waitPoll_none (s := s.withOutputs b d) hkey]
  case true =>
    rw [waitPoll_key hkey, waitPoll_key (s := s.withOutputs b d) hkey]
    rfl

/-- Settles O48: no gate, fetch or instruction reads ST or DIRTY. -/
theorem soundTimerAndDirtyAreNotRead : Obligations.SoundTimerAndDirtyAreNotRead := by
  intro s b d
  obtain ⟨t, hstep⟩ := step_total s
  rcases step_cases hstep with ⟨hf, rfl⟩ | ⟨hf, hw, rfl⟩ | ⟨hf, hw, r, hfetch, rfl⟩ | ⟨hf, hw, w, u, hfetch, hd, rfl⟩ |
    ⟨hf, hw, w, i, hfetch, hd, hexec⟩
  · exact ⟨_, b, d, hstep, step_of_faulted (s := t.withOutputs b d) hf⟩
  · refine ⟨_, b, d, hstep, ?_⟩
    exact (step_of_waiting (s := s.withOutputs b d) hf hw).trans (by rw [waitPoll_withOutputs]; rfl)
  · exact ⟨_, b, d, hstep, step_of_fetch_error (s := s.withOutputs b d) hf hw hfetch⟩
  · exact ⟨_, b, d, hstep, step_unknown (s := s.withOutputs b d) hf hw hfetch hd⟩
  · obtain ⟨t', b', d', hexec', hother, -⟩ := readsNoOutput i s b d
    exact ⟨t', b', d', (step_of_instr hf hw hfetch hd).trans hexec',
      (step_of_instr (s := s.withOutputs b d) hf hw hfetch hd).trans hother⟩

/-! ### States that stay -/

theorem exec_jp_self {nnn : Imm12} {s : State} (h : s.pc.toNat = nnn.toNat) : exec (.jp nnn) s = .next s := by
  have hpc : zextImm nnn = s.pc := BitVec.eq_of_toNat_eq (by rw [zextImm_toNat, h])
  rw [exec_jp, hpc]
  rfl

/-- Settles O49: the two gates keep a state that they close, and a jump to its own address moves nothing. -/
theorem quiescentStatesStay : Obligations.QuiescentStatesStay := by
  rintro s (hf | ⟨hw, hkey⟩ | ⟨nnn, hruns, hpc⟩)
  · exact step_of_faulted hf
  · cases hf : s.faulted
    case true => exact step_of_faulted hf
    case false => rw [step_of_waiting hf hw, waitPoll_none hkey]
  · rw [hruns.step_eq, exec_jp_self hpc]

end Sys2Proof.Machine
end

section
/-!
PROOFS. 41_control_flow.md: JP V0, CALL and RET, each with its encoding, its effect and its frame; and the rules about
calls and returns that nest (R82, W6; 60_exceptions.md R121, R122).
-/

namespace Sys2Proof.Machine

/-! ### The jump with an offset -/

/-- The target does not wrap: it is at most 0x10FE (41_control_flow.md R81). -/
theorem zextImm_add_zextByte_toNat (nnn : Imm12) (b : Byte) :
    (zextImm nnn + zextByte b).toNat = nnn.toNat + b.toNat := by
  have hb : (zextByte b).toNat = b.toNat := BitVec.toNat_setWidth_of_le (by decide)
  rw [BitVec.toNat_add, zextImm_toNat, hb, Nat.mod_eq_of_lt (by omega)]

/-- Settles O13: the jump writes PC alone, so the gates stay as they were, and the next STEP's fetch sees the target. -/
theorem jumpWithOffset : Obligations.JumpWithOffset := by
  refine fun nnn => ⟨decode_jpV0 nnn, fun s => ⟨_, exec_jpV0 nnn s, ?_⟩⟩
  have htarget := zextImm_add_zextByte_toNat nnn (s.reg 0)
  refine ⟨htarget, ?_, sameBut_setPc s _, fun hf hw hpc => step_fetch_out hf hw (Nat.succ_lt_succ hpc)⟩
  rw [htarget]
  omega

/-! ### One call and one return -/

/-- Two states have the same call-stack entries below `n`. -/
def SameEntriesBelow (n : Nat) (s t : State) : Prop := ∀ k : Fin 16, k.val < n → t.stack[k.val] = s.stack[k.val]

/-- The state after a CALL that finds room. -/
def State.afterCall (s : State) (nnn : Imm12) (h : s.sp.val < 16) : State :=
  { s.advance with stack := s.stack.set s.sp.val (s.pc + 2) h, sp := ⟨s.sp.val + 1, by omega⟩, pc := zextImm nnn }

/-- The state after a RET that finds an entry. -/
def State.afterRet (s : State) (h : 0 < s.sp.val) : State :=
  { s.advance with sp := ⟨s.sp.val - 1, by omega⟩, pc := s.stack[s.sp.val - 1]'(by omega) }

theorem exec_call_afterCall (nnn : Imm12) {s : State} (h : s.sp.val < 16) :
    exec (.call nnn) s = .next (s.afterCall nnn h) :=
  exec_call_room nnn h

theorem exec_ret_afterRet {s : State} (h : 0 < s.sp.val) : exec .ret s = .next (s.afterRet h) :=
  exec_ret_entry h

theorem sameBut_callStack (s : State) (stack : Vector Word 16) (sp : Fin 17) (pc : Word) :
    SameBut [.pc, .callStack] s { s.advance with stack := stack, sp := sp, pc := pc } := by
  intro p hp
  cases p <;> simp_all [Part.same, State.reg]

theorem State.afterCall_entry (s : State) (nnn : Imm12) (h : s.sp.val < 16) (k : Fin 16) :
    (s.afterCall nnn h).stack[k.val] = if k.val = s.sp.val then s.pc + 2 else s.stack[k.val] := by
  simp only [State.afterCall, Vector.getElem_set, eq_comm (a := s.sp.val) (b := k.val)]

theorem sameEntriesBelow_afterCall (s : State) (nnn : Imm12) (h : s.sp.val < 16) :
    SameEntriesBelow s.sp.val s (s.afterCall nnn h) := by
  intro k hk
  rw [State.afterCall_entry, if_neg (by omega)]

/-- Settles O14: with room the call pushes the advanced PC, and without it the push raises the fault. -/
theorem callPushesTheReturnAddress : Obligations.CallPushesTheReturnAddress := fun nnn =>
  ⟨decode_call nnn, fun s =>
    ⟨fun h => ⟨_, exec_call_afterCall nnn h, zextImm_toNat nnn, rfl, s.afterCall_entry nnn h,
        sameBut_callStack s _ _ _⟩,
      fun h => ⟨_, exec_call_full nnn h, takesFault_takeFault s _⟩⟩⟩

/-- Settles O15: with an entry the return pops it, and without one the pop raises the fault. -/
theorem returnPopsTheCallStack : Obligations.ReturnPopsTheCallStack := by
  refine ⟨decode_ret, fun s => ⟨fun k hk => ?_, fun h => ⟨_, exec_ret_empty h, takesFault_takeFault s _⟩⟩⟩
  have hidx : s.sp.val - 1 = k.val := by omega
  refine ⟨_, exec_ret_afterRet (by omega), ?_, hidx, rfl, sameBut_callStack s _ _ _⟩
  simp only [State.afterRet, hidx]

/-- A return on the call stack that a call left, as far as its entries in use go, comes back to the instruction after
the call, with the entries below as they were before it (41_control_flow.md R82). -/
theorem exec_ret_after_call {s u : State} {nnn : Imm12} (h : s.sp.val < 16) (hsp : u.sp.val = s.sp.val + 1)
    (hstack : SameEntriesBelow (s.sp.val + 1) (s.afterCall nnn h) u) :
    ∃ w, exec .ret u = .next w ∧ w.pc = s.pc + 2 ∧ w.sp = s.sp ∧ SameEntriesBelow s.sp.val s w ∧
      SameBut [.pc, .callStack] u w := by
  have hidx : u.sp.val - 1 = s.sp.val := by omega
  refine ⟨_, exec_ret_afterRet (by omega), ?_, Fin.ext hidx, fun k hk => ?_, sameBut_callStack u _ _ _⟩
  · have hentry := hstack ⟨s.sp.val, h⟩ (Nat.lt_succ_self _)
    rw [State.afterCall_entry, if_pos rfl] at hentry
    simpa only [State.afterRet, hidx] using hentry
  · exact (hstack k (by omega)).trans (sameEntriesBelow_afterCall s nnn h k hk)

/-- Settles O16: the subroutine leaves the call stack as the call left it, so the return pops what the call pushed. -/
theorem callThenReturnComesBack : Obligations.CallThenReturnComesBack := by
  intro nnn s t u hroom hcall hsp hstack
  rw [exec_call_afterCall nnn hroom] at hcall
  cases hcall
  obtain ⟨w, hret, hpc, hwsp, hentries, -⟩ :=
    exec_ret_after_call hroom (congrArg Fin.val hsp) fun k _ => by rw [hstack]
  exact ⟨w, hret, hpc, hwsp, hentries⟩

/-! ### Calls that nest -/

theorem execAll_cons {i : Instr} {rest : List Instr} {s t : State} (h : exec i s = .next t) :
    execAll (i :: rest) s = execAll rest t := by
  rw [execAll, h]

theorem execAll_append {is js : List Instr} {s t : State} (h : execAll is s = .next t) :
    execAll (is ++ js) s = execAll js t := by
  induction is generalizing s with
  | nil => cases h; rfl
  | cons i rest ih =>
    obtain ⟨u, hu⟩ := exec_total i s
    rw [List.cons_append, execAll_cons hu]
    exact ih ((execAll_cons hu).symm.trans h)

/-- As many calls as there is room for all push. -/
theorem execAll_calls {targets : List Imm12} {s : State} (h : s.sp.val + targets.length ≤ 16) :
    ∃ t, execAll (targets.map .call) s = .next t ∧ t.sp.val = s.sp.val + targets.length ∧ t.faulted = s.faulted := by
  induction targets generalizing s with
  | nil => exact ⟨s, rfl, rfl, rfl⟩
  | cons nnn rest ih =>
    rw [List.length_cons] at h
    have hroom : s.sp.val < 16 := by omega
    have hsp : (s.afterCall nnn hroom).sp.val = s.sp.val + 1 := rfl
    obtain ⟨t, ht, htsp, htf⟩ := ih (s := s.afterCall nnn hroom) (by omega)
    exact ⟨t, (execAll_cons (exec_call_afterCall nnn hroom)).trans ht, by rw [List.length_cons]; omega, htf⟩

/-- Settles O17: the calls count up to 16, where the next finds no room. -/
theorem atMostSixteenCallsNest : Obligations.AtMostSixteenCallsNest := by
  refine ⟨fun targets s => ⟨execAll_calls, fun hfull nnn => ?_⟩, fun s hsp => ⟨_, exec_ret_empty hsp, rfl, rfl, hsp⟩⟩
  obtain ⟨t, ht, htsp, -⟩ := execAll_calls (Nat.le_of_eq hfull)
  have hsp : t.sp.val = 16 := htsp.trans hfull
  exact ⟨_, (execAll_append ht).trans (execAll_cons (exec_call_full nnn hsp)), rfl, rfl, hsp⟩

theorem SameBut.refl (ps : List Part) (s : State) : SameBut ps s s := by
  intro p _
  cases p <;> simp [Part.same]

theorem SameBut.trans {ps : List Part} {s t u : State} (hst : SameBut ps s t) (htu : SameBut ps t u) :
    SameBut ps s u := by
  intro p hp
  have h1 := hst p hp
  have h2 := htu p hp
  cases p <;> simp_all [Part.same]

/-- Nested calls and equally many returns leave SP, the entries in use and every element but PC and the call stack as
they were. -/
def NestsBack (s t : State) : Prop :=
  t.sp = s.sp ∧ SameEntriesBelow s.sp.val s t ∧ SameBut [.pc, .callStack] s t

/-- A call around nested calls that come back comes back past the call. -/
theorem execAll_call_nested_ret {inner : List Instr} {nnn : Imm12} {s t : State} (h : s.sp.val < 16)
    (hinner : execAll inner (s.afterCall nnn h) = .next t) (hback : NestsBack (s.afterCall nnn h) t) :
    ∃ u, execAll (.call nnn :: (inner ++ [.ret])) s = .next u ∧ u.pc = s.pc + 2 ∧ NestsBack s u := by
  obtain ⟨htsp, hentries, hsame⟩ := hback
  obtain ⟨u, hret, hpc, husp, hbelow, husame⟩ := exec_ret_after_call h (congrArg Fin.val htsp) hentries
  refine ⟨u, ?_, hpc, husp, hbelow, ?_⟩
  · rw [execAll_cons (exec_call_afterCall nnn h), execAll_append hinner, execAll_cons hret]
    rfl
  · exact ((sameBut_callStack s _ _ _).trans hsame).trans husame

/-- The calls to the targets, and then as many returns. -/
def callsAndReturns (targets : List Imm12) : List Instr := targets.map .call ++ List.replicate targets.length .ret

theorem callsAndReturns_cons (nnn : Imm12) (targets : List Imm12) :
    callsAndReturns (nnn :: targets) = .call nnn :: (callsAndReturns targets ++ [.ret]) := by
  simp [callsAndReturns, List.replicate_succ']

/-- Calls and returns that find room come back, past the first call if there is one. -/
theorem execAll_callsAndReturns {targets : List Imm12} {s : State} (h : s.sp.val + targets.length ≤ 16) :
    ∃ t, execAll (callsAndReturns targets) s = .next t ∧ (targets ≠ [] → t.pc = s.pc + 2) ∧ NestsBack s t := by
  induction targets generalizing s with
  | nil => exact ⟨s, rfl, fun hne => absurd rfl hne, rfl, fun _ _ => rfl, SameBut.refl _ s⟩
  | cons nnn rest ih =>
    rw [List.length_cons] at h
    have hroom : s.sp.val < 16 := by omega
    have hsp : (s.afterCall nnn hroom).sp.val = s.sp.val + 1 := rfl
    obtain ⟨t, ht, -, hback⟩ := ih (s := s.afterCall nnn hroom) (by omega)
    obtain ⟨u, hu, hpc, huback⟩ := execAll_call_nested_ret hroom ht hback
    exact ⟨u, by rw [callsAndReturns_cons, hu], fun _ => hpc, huback⟩

/-- Settles O18: each call returns around the calls nested in it, the first one last. -/
theorem nestedCallsAllComeBack : Obligations.NestedCallsAllComeBack := by
  intro nnn targets s h
  obtain ⟨t, ht, hpc, hsp, hentries, hsame⟩ := execAll_callsAndReturns (targets := nnn :: targets) h
  exact ⟨t, ht, hpc (List.cons_ne_nil _ _), hsp, hentries, hsame⟩

end Sys2Proof.Machine
end

section
/-!
PROOFS. 42_alu.md R90 to R95: the sum and the differences with their flags, the shifts and the random byte.
-/

namespace Sys2Proof.Machine

/-! ### A write to a register and to the flag -/

theorem sameBut_setReg_setReg_advance (s : State) (x y : Reg) (a b : Byte) :
    SameBut [.regs, .pc] s ((s.advance.setReg x a).setReg y b) := by
  intro p hp
  cases p <;> simp_all [Part.same]

theorem writesRegThenFlag_advance (s : State) (x : Reg) (b : Byte) (f : Bool) :
    WritesRegThenFlag x b f s (s.advance.setResultThenFlag x b f) :=
  ⟨rfl, fun r => State.reg_setResultThenFlag s.advance x r b f, sameBut_setReg_setReg_advance s _ _ _ _⟩

theorem writesFlagThenReg_advance (s : State) (x : Reg) (b : Byte) (f : Bool) :
    WritesFlagThenReg x b f s (s.advance.setFlagThenResult x b f) :=
  ⟨rfl, fun r => State.reg_setFlagThenResult s.advance x r b f, sameBut_setReg_setReg_advance s _ _ _ _⟩

/-! ### The values as numbers -/

/-- Byte subtraction is the difference modulo 256. -/
theorem ofNat_sub_mod_eq_sub (a b : Byte) : BitVec.ofNat 8 ((a.toNat + 256 - b.toNat) % 256) = a - b := by
  refine BitVec.eq_of_toNat_eq ?_
  rw [BitVec.toNat_ofNat, BitVec.toNat_sub]
  omega

theorem ofNat_div_two_eq_shiftRight (a : Byte) : BitVec.ofNat 8 (a.toNat / 2) = a >>> 1 := by
  refine BitVec.eq_of_toNat_eq ?_
  rw [BitVec.toNat_ofNat, BitVec.toNat_ushiftRight, Nat.shiftRight_eq_div_pow]
  omega

theorem ofNat_mul_two_mod_eq_shiftLeft (a : Byte) : BitVec.ofNat 8 (a.toNat * 2 % 256) = a <<< 1 := by
  refine BitVec.eq_of_toNat_eq ?_
  rw [BitVec.toNat_ofNat, BitVec.toNat_shiftLeft, Nat.shiftLeft_eq]
  omega

theorem decide_mod_two_eq_shiftedOutRight (a : Byte) : decide (a.toNat % 2 = 1) = shiftedOutRight a := by
  revert a; decide

theorem decide_ge_128_eq_shiftedOutLeft (a : Byte) : decide (a.toNat ≥ 128) = shiftedOutLeft a := by
  revert a; decide

/-- Settles O21: the sum writes its flag last and the differences first. -/
theorem sumAndDifferencesWithFlag : Obligations.SumAndDifferencesWithFlag := by
  refine fun x y => ⟨decode_addReg x y, decode_subReg x y, decode_subnReg x y, fun s => ⟨?_, ?_, ?_⟩⟩
  · rw [ofNat_add_mod_eq_add]
    exact ⟨_, exec_addReg x y s, writesRegThenFlag_advance s x _ _⟩
  · rw [ofNat_sub_mod_eq_sub]
    exact ⟨_, exec_subReg x y s, writesFlagThenReg_advance s x _ _⟩
  · rw [ofNat_sub_mod_eq_sub]
    exact ⟨_, exec_subnReg x y s, writesFlagThenReg_advance s x _ _⟩

/-- Settles O22: a shift by one halves or doubles, and the bit it drops is the low or the high one. -/
theorem shiftsByOneWithFlag : Obligations.ShiftsByOneWithFlag := by
  refine fun x s => ⟨?_, ?_⟩
  · rw [ofNat_div_two_eq_shiftRight, decide_mod_two_eq_shiftedOutRight]
    exact ⟨_, exec_shr x s, writesFlagThenReg_advance s x _ _⟩
  · rw [ofNat_mul_two_mod_eq_shiftLeft, decide_ge_128_eq_shiftedOutLeft]
    exact ⟨_, exec_shl x s, writesFlagThenReg_advance s x _ _⟩

/-! ### The random byte -/

theorem sameBut_rnd (s : State) (x : Reg) (b : Byte) (n : Nat) :
    SameBut [.regs, .pc, .draws] s { s.advance.setReg x b with draws := n } := by
  intro p hp
  cases p <;> simp_all [Part.same]

/-- A masked byte has no bit outside the mask. -/
theorem and_mask_and_not_mask (b m : Byte) : b &&& m &&& ~~~ m = 0 := by
  simp [BitVec.and_assoc]

/-- Settles O23: whatever the draw, the mask is applied to it. -/
theorem randomByteIsMasked : Obligations.RandomByteIsMasked := by
  refine fun x kk => ⟨decode_rnd x kk, fun s => ⟨_, exec_rnd x kk s, rfl, fun r => State.reg_setReg s.advance x r _,
    ?_, rfl, sameBut_rnd s x _ _⟩⟩
  have hreg := State.reg_setReg_same s.advance x (Config.randomByte s.draws &&& kk)
  exact (congrArg (· &&& ~~~ kk) hreg).trans (and_mask_and_not_mask _ _)

end Sys2Proof.Machine
end

section
/-!
PROOFS. 43_index_memory.md R98 to R102 and 20_memory.md section 3 and R44: the sum with I, the three memory transfers,
the store that the next fetch sees, and that memory in canonical form is the bytes it holds.
-/

namespace Sys2Proof.Machine

/-! ### The sum with I -/

/-- Settles O25: word addition wraps modulo 2^16, and I is the one element written but PC. -/
theorem addToIndexWraps : Obligations.AddToIndexWraps := by
  refine fun x => ⟨decode_addIVx x, fun s => ⟨_, exec_addIVx x s, ?_, s.advance_pc, sameBut_setI_advance s _⟩⟩
  have hb : (zextByte (s.reg x)).toNat = (s.reg x).toNat := BitVec.toNat_setWidth_of_le (by decide)
  exact (BitVec.toNat_add s.i _).trans (by rw [hb])

/-! ### The transfers between registers and memory -/

theorem sameBut_setMem_advance (s : State) (m : Memory) : SameBut [.memory, .pc] s { s.advance with mem := m } := by
  intro p hp
  cases p <;> simp_all [Part.same, State.reg]

theorem sameBut_setV_advance (s : State) (v : Vector Byte 16) : SameBut [.regs, .pc] s { s.advance with v := v } := by
  intro p hp
  cases p <;> simp_all [Part.same]

theorem Memory.read_writeBytes_in {bytes : List Byte} {k : Nat} (m : Memory) (base : Nat) (h : k < bytes.length) :
    Memory.read (Memory.writeBytes m base bytes) (base + k) = bytes.getD k 0 := by
  rw [Memory.read_writeBytes, if_pos (by omega), Nat.add_sub_cancel_left]

theorem Memory.read_writeBytes_out {bytes : List Byte} {a base : Nat} (m : Memory)
    (h : ¬ (base ≤ a ∧ a < base + bytes.length)) :
    Memory.read (Memory.writeBytes m base bytes) a = Memory.read m a := by
  rw [Memory.read_writeBytes, if_neg h]

/-- Each decimal digit of a byte is below 10, so it is exact as a byte. -/
theorem bcdDigits_toNat (b : Byte) :
    ((bcdDigits b).getD 0 0).toNat = b.toNat / 100 ∧ ((bcdDigits b).getD 1 0).toNat = b.toNat / 10 % 10 ∧
      ((bcdDigits b).getD 2 0).toNat = b.toNat % 10 := by
  simp only [bcdDigits, List.getD_cons_zero, List.getD_cons_succ, BitVec.toNat_ofNat]
  omega

/-- Settles O26: the store writes the digit list at I, and its span is three bytes. -/
theorem bcdStore : Obligations.BcdStore := by
  refine fun x => ⟨decode_ldBVx x, fun s => ⟨fun h => ⟨_, exec_ldBVx_in x (Nat.succ_le_succ h), s.advance_pc, ?_⟩,
    fun h => ⟨_, exec_ldBVx_out x (Nat.succ_lt_succ h), takesFault_takeFault s _⟩⟩⟩
  have hread := fun k (hk : k < 3) => Memory.read_writeBytes_in (bytes := bcdDigits (s.reg x)) s.mem s.i.toNat hk
  obtain ⟨hhundreds, htens, hones⟩ := bcdDigits_toNat (s.reg x)
  refine ⟨?_, ?_, ?_, fun a ha => Memory.read_writeBytes_out s.mem ha, sameBut_setMem_advance s _⟩
  · rw [← hhundreds, ← hread 0 (by decide), Nat.add_zero]
  · rw [← htens, ← hread 1 (by decide)]
  · rw [← hones, ← hread 2 (by decide)]

/-- After a register block is stored, the byte for each register of the block is that register. -/
theorem read_store_block {s : State} {x r : Reg} (h : r.val ≤ x.val) :
    Memory.read (Memory.writeBytes s.mem s.i.toNat (s.block x)) (s.i.toNat + r.val) = s.reg r := by
  rw [Memory.read_writeBytes_in _ _ (by rw [State.block_length]; omega), State.block_getD s h]

/-- Settles O27: the store writes the register block at I, and its span is the block's length. -/
theorem registerBlockStore : Obligations.RegisterBlockStore := by
  refine fun x => ⟨decode_ldMemVx x, fun s => ⟨fun h => ⟨_, exec_ldMemVx_in x (Nat.succ_le_succ h), s.advance_pc,
    fun r hr => read_store_block hr, fun a ha => Memory.read_writeBytes_out s.mem ?_, sameBut_setMem_advance s _⟩,
    fun h => ⟨_, exec_ldMemVx_out x (Nat.succ_lt_succ h), takesFault_takeFault s _⟩⟩⟩
  rw [State.block_length]
  omega

/-- Each register of a loaded block holds its byte of memory, and the others what they held. -/
theorem reg_load_block (s : State) (x r : Reg) :
    { s.advance with v := loadBlock s.v (Memory.readBytes s.mem s.i.toNat (x.val + 1)) }.reg r =
      if r.val ≤ x.val then Memory.read s.mem (s.i.toNat + r.val) else s.reg r := by
  by_cases h : r.val ≤ x.val
  · rw [if_pos h, State.reg, loadBlock_getElem, Memory.readBytes_getD s.mem (Nat.lt_succ_of_le h)]
  · rw [if_neg h, reg_loadBlock_above s (Memory.readBytes_length _ _ _) h]

/-- Settles O28: the load reads the span whole and writes the block of registers alone. -/
theorem registerBlockLoad : Obligations.RegisterBlockLoad := fun x =>
  ⟨decode_ldVxMem x, fun s => ⟨fun h => ⟨_, exec_ldVxMem_in x (Nat.succ_le_succ h), s.advance_pc, reg_load_block s x,
    sameBut_setV_advance s _⟩,
    fun h => ⟨_, exec_ldVxMem_out x (Nat.succ_lt_succ h), takesFault_takeFault s _⟩⟩⟩

/-! ### A store over the next word -/

/-- Settles O29: the store ends with PC at I, where the fetch reads the first two bytes of the block. -/
theorem storeIsSeenByTheNextFetch : Obligations.StoreIsSeenByTheNextFetch := by
  intro s t x hx hi hspan hexec
  rw [exec_ldMemVx_in x (Nat.succ_le_succ hspan)] at hexec
  cases hexec
  have hread0 : Memory.read (Memory.writeBytes s.mem s.i.toNat (s.block x)) s.i.toNat = s.reg 0 :=
    read_store_block (r := 0) (Nat.zero_le _)
  have hread1 : Memory.read (Memory.writeBytes s.mem s.i.toNat (s.block x)) (s.i.toNat + 1) = s.reg 1 :=
    read_store_block (r := 1) hx
  rw [fetch_in (by simp only [State.advance_pc, ← hi, Config.addrMax]; omega)]
  simp only [State.advance_pc, ← hi]
  rw [hread0, hread1, Word.ofBytes]

/-! ### Memory in canonical form -/

/-- An address that memory does not list reads as its reset contents. -/
theorem Memory.read_of_not_listed {m : Memory} {a : Nat} (h : ∀ c ∈ m, c.1 ≠ a) :
    Memory.read m a = Memory.initial a := by
  induction m with
  | nil => rfl
  | cons c rest ih =>
    obtain ⟨k, b⟩ := c
    rw [Memory.read, if_neg (h (k, b) List.mem_cons_self)]
    exact ih fun e he => h e (List.mem_cons_of_mem _ he)

section
variable {k : Nat} {b : Byte} {m : Memory} (h : Memory.wf ((k, b) :: m))
include h

theorem Memory.wf_tail : Memory.wf m :=
  ⟨(List.pairwise_cons.mp h.1).2, fun c hc => h.2 c (List.mem_cons_of_mem _ hc)⟩

theorem Memory.head_lt_of_wf : ∀ c ∈ m, k < c.1 := (List.pairwise_cons.mp h.1).1

/-- The first listed address is the first that does not read as its reset contents. -/
theorem Memory.read_before_head {a : Nat} (ha : a < k) : Memory.read ((k, b) :: m) a = Memory.initial a := by
  refine Memory.read_of_not_listed fun c hc => ?_
  rcases List.mem_cons.mp hc with rfl | hc
  · exact Nat.ne_of_gt ha
  · exact Nat.ne_of_gt (Nat.lt_trans ha (Memory.head_lt_of_wf h c hc))

theorem Memory.read_head_ne_initial : Memory.read ((k, b) :: m) k ≠ Memory.initial k := by
  rw [Memory.read, if_pos rfl]
  exact (h.2 (k, b) List.mem_cons_self).2

/-- Without its first cell, memory reads the same but at that cell's address. -/
theorem Memory.read_tail (a : Nat) :
    Memory.read m a = if a = k then Memory.initial a else Memory.read ((k, b) :: m) a := by
  by_cases ha : a = k
  · subst ha
    rw [if_pos rfl, Memory.read_of_not_listed fun c hc => Nat.ne_of_gt (Memory.head_lt_of_wf h c hc)]
  · rw [if_neg ha, Memory.read, if_neg (Ne.symm ha)]

end

/-- Canonical memories that read the same list the same cells. -/
theorem Memory.eq_of_read_eq {m m' : Memory} (hm : Memory.wf m) (hm' : Memory.wf m')
    (h : ∀ a, Memory.read m a = Memory.read m' a) : m = m' := by
  induction m generalizing m' with
  | nil =>
    cases m' with
    | nil => rfl
    | cons c' rest' => exact absurd (h c'.1).symm (Memory.read_head_ne_initial hm')
  | cons c rest ih =>
    cases m' with
    | nil => exact absurd (h c.1) (Memory.read_head_ne_initial hm)
    | cons c' rest' =>
      obtain ⟨k, b⟩ := c
      obtain ⟨k', b'⟩ := c'
      have hk : k = k' := by
        rcases Nat.lt_trichotomy k k' with hlt | heq | hgt
        · exact absurd ((h k).trans (Memory.read_before_head hm' hlt)) (Memory.read_head_ne_initial hm)
        · exact heq
        · exact absurd ((h k').symm.trans (Memory.read_before_head hm hgt)) (Memory.read_head_ne_initial hm')
      subst hk
      have hb : b = b' := by simpa [Memory.read] using h k
      have hrest : rest = rest' := ih (Memory.wf_tail hm) (Memory.wf_tail hm') fun a => by
        rw [Memory.read_tail hm, Memory.read_tail hm', h]
      rw [hb, hrest]

/-- Settles O30: the first listed address of a canonical memory is the first that does not read as its reset contents,
so the lists agree cell by cell; and a write of what is there reads the same everywhere. -/
theorem canonicalMemoryIsItsBytes : Obligations.CanonicalMemoryIsItsBytes := by
  refine ⟨fun _ _ => Memory.eq_of_read_eq, fun m a hm ha => Memory.eq_of_read_eq (Memory.write_wf _ hm ha) hm ?_⟩
  intro c
  rw [Memory.read_write]
  split
  next hc => rw [hc]
  next => rfl

end Sys2Proof.Machine
end

section
/-!
PROOFS. 45_keys_timers.md R109 to R111 and R113: the key skips, and the key load with the wait it begins and the key
that ends it.
-/

namespace Sys2Proof.Machine

/-! ### The key skips -/

section
variable {s : State} {x : Reg} {k : Key}

theorem exec_skp_of_key (hk : (s.reg x).toNat = k.val) :
    exec (.skp x) s = .next (s.advance.skipIf (s.pressed k)) := by
  have hlt : (s.reg x).toNat < 16 := hk ▸ k.isLt
  obtain rfl : k = ⟨(s.reg x).toNat, hlt⟩ := Fin.ext hk.symm
  exact exec_skp_key hlt

theorem exec_sknp_of_key (hk : (s.reg x).toNat = k.val) :
    exec (.sknp x) s = .next (s.advance.skipIf (!s.pressed k)) := by
  have hlt : (s.reg x).toNat < 16 := hk ▸ k.isLt
  obtain rfl : k = ⟨(s.reg x).toNat, hlt⟩ := Fin.ext hk.symm
  exact exec_sknp_key hlt

end

/-- Settles O35: the byte Vx is the key number or none, and the skip is the skip primitive under the key's state. -/
theorem keySkips : Obligations.KeySkips := by
  refine fun x => ⟨decode_skp x, decode_sknp x, fun s => ⟨fun k hk => ⟨?_, ?_⟩, fun h => ?_⟩⟩
  · exact ⟨_, exec_skp_of_key hk, skips_skipIf s Iff.rfl⟩
  · exact ⟨_, exec_sknp_of_key hk, skips_skipIf s (Bool.not_eq_true' _).to_iff⟩
  · rw [BitVec.ofNat_toNat]
    have hout : ¬ (s.reg x).toNat < 16 := by omega
    exact ⟨⟨_, exec_skp_out hout, takesFault_takeFault s _⟩, ⟨_, exec_sknp_out hout, takesFault_takeFault s _⟩⟩

/-! ### The key load -/

theorem sameBut_takeKey (s : State) (x : Reg) (b : Byte) :
    SameBut [.regs, .pc, .lastKey] s { s.advance.setReg x b with lastKeyValid := false } := by
  intro p hp
  cases p <;> simp_all [Part.same]

/-- The state in which an Fx0A waits. -/
def State.waitingFor (s : State) (x : Reg) : State := { s with wait := true, waitX := x }

theorem sameBut_waitingFor (s : State) (x : Reg) : SameBut [.wait] s (s.waitingFor x) := by
  intro p hp
  cases p <;> simp_all [Part.same, State.waitingFor, State.reg]

/-- Settles O37: a latched key is written to x and consumed; without one only the wait state changes. -/
theorem keyLoadCompletesOrWaits : Obligations.KeyLoadCompletesOrWaits := fun x =>
  ⟨decode_ldVxK x, fun s =>
    ⟨fun hkey => ⟨_, exec_ldVxK_key x hkey, s.advance_pc, fun r => State.reg_setReg s.advance x r _, rfl,
        sameBut_takeKey s x _⟩,
      fun hkey => ⟨_, exec_ldVxK_none x hkey, rfl, rfl, sameBut_waitingFor s x⟩⟩⟩

/-! ### The end of a wait -/

/-- A state that a STEP leaves as it is stays so for any number of STEPs. -/
theorem performAll_steps_stay {font : Font} {s : State} (h : step s = .next s) (n : Nat) :
    performAll font (List.replicate n .step) s = .next s := by
  induction n with
  | zero => rfl
  | succ n ih => rw [List.replicate_succ, performAll, Operation.perform_step, h]; exact ih

/-- The first STEP of a waiting engine after the host latches a key. -/
theorem performAll_key_ends_wait {font : Font} {s : State} (x : Reg) (k : Key) (hf : s.faulted = false) :
    performAll font [.setLastKey k, .step] (s.waitingFor x) =
      .next { ((s.waitingFor x).setLastKey k).setReg x (keyByte k) with
        lastKeyValid := false, wait := false, pc := s.pc + 2 } := by
  have hstep : step ((s.waitingFor x).setLastKey k) = _ :=
    (step_of_waiting (s := (s.waitingFor x).setLastKey k) hf rfl).trans (congrArg _ (waitPoll_key rfl))
  rw [performAll, Operation.perform_setLastKey]
  simp only [performAll, Operation.perform_step, hstep]
  rfl

theorem sameBut_afterWait (s : State) (x : Reg) (k : Key) (b : Byte) :
    SameBut [.regs, .pc, .lastKey, .wait] s { ((s.waitingFor x).setLastKey k).setReg x b with
      lastKeyValid := false, wait := false, pc := s.pc + 2 } := by
  intro p hp
  cases p <;> simp_all [Part.same, State.waitingFor]

/-- Settles O38: the first STEP begins the wait, each further one polls in vain, and with the key latched the poll
completes the Fx0A. -/
theorem waitEndsWithTheNextKey : Obligations.WaitEndsWithTheNextKey := by
  intro font x s n k hruns hkey
  have hf := hruns.1
  have hbegin : step s = .next (s.waitingFor x) := hruns.step_eq.trans (exec_ldVxK_none x hkey)
  have hstay : step (s.waitingFor x) = .next (s.waitingFor x) :=
    (step_of_waiting (s := s.waitingFor x) hf rfl).trans (congrArg _ (waitPoll_none hkey))
  refine ⟨s.waitingFor x, _, ?_, rfl, rfl, sameBut_waitingFor s x, performAll_key_ends_wait x k hf, rfl, rfl, rfl,
    fun r => State.reg_setReg ((s.waitingFor x).setLastKey k) x r _, sameBut_afterWait s x k _⟩
  rw [List.replicate_succ, performAll, Operation.perform_step, hbegin]
  exact performAll_steps_stay hstay n

end Sys2Proof.Machine
end

section
/-!
PROOFS. The host's operations: RESET and LOAD (70_reset_and_hazards.md sections 1 to 3), TICK and the key operations
(60_exceptions.md R130, R133), each with its effect and its frame; and the status word (10_state.md R27).
-/

namespace Sys2Proof.Machine

/-! ### RESET -/

/-- FONT stands at 0x000 after RESET. -/
theorem State.resetOf_read_font (font : Font) (k : Fin 80) :
    Memory.read (State.resetOf font).mem k.val = font[k.val] := by
  have hlen : k.val < font.toList.length := by rw [Vector.length_toList]; exact k.isLt
  rw [State.resetOf_read, if_pos k.isLt, List.getD_eq_getElem?_getD, List.getElem?_eq_getElem hlen,
    Option.getD_some, Vector.getElem_toList]

theorem State.resetOf_read_above (font : Font) {a : Nat} (h : 80 ≤ a) :
    Memory.read (State.resetOf font).mem a = 0 := by
  rw [State.resetOf_read, if_neg (by omega)]

theorem State.resetOf_reg (font : Font) (r : Reg) : (State.resetOf font).reg r = 0 :=
  Vector.getElem_replicate _

theorem State.resetOf_stack (font : Font) (k : Fin 16) : (State.resetOf font).stack[k.val] = 0 :=
  Vector.getElem_replicate _

theorem State.resetOf_key (font : Font) (k : Key) : (State.resetOf font).key[k.val] = false :=
  Vector.getElem_replicate _

/-- Settles O50: RESET answers the reset state of the engine with the count of draws as it was. -/
theorem resetPutsEveryElement : Obligations.ResetPutsEveryElement :=
  ⟨State.resetOf_default, fun font s => ⟨_, Operation.perform_reset font s, rfl, State.resetOf_reg font, rfl, rfl, rfl,
    State.resetOf_stack font, rfl, rfl, State.resetOf_read_font font, fun _ => State.resetOf_read_above font,
    fun _ => Display.pixel_clear _ _, rfl, State.resetOf_key font, rfl, rfl, rfl, rfl, rfl, rfl, rfl, rfl, rfl⟩⟩

/-! ### LOAD -/

theorem sameBut_setMem_setDisplay (s : State) (m : Memory) (d : Display) (b : Bool) :
    SameBut [.memory, .display, .dirty] s { s with mem := m, disp := d, dirty := b } := by
  intro p hp
  cases p <;> simp_all [Part.same, State.reg]

theorem reply_load_fits {bytes : List Byte} (h : bytes.length ≤ 3584) : (Operation.load bytes).reply = .ok :=
  if_neg (Nat.not_lt.mpr h)

theorem reply_load_tooLarge {bytes : List Byte} (h : bytes.length > 3584) :
    (Operation.load bytes).reply = .loadTooLarge :=
  if_pos h

/-- Settles O51: a program that fits is written whole, and one that does not leaves the state itself. -/
theorem loadCopiesOrRefuses : Obligations.LoadCopiesOrRefuses := by
  refine fun font s bytes => ⟨fun h => ⟨reply_load_fits h, _, Operation.perform_load font bytes s, ?_⟩,
    fun h => ⟨reply_load_tooLarge h, ?_⟩⟩
  · rw [State.load_fits s h]
    exact ⟨Memory.read_writeBytes bytes s.mem 0x200, fun _ => Display.pixel_clear _ _, rfl,
      sameBut_setMem_setDisplay s _ _ _⟩
  · rw [Operation.perform_load, State.load_tooLarge s h]

theorem fetch_at {s : State} {a : Nat} (hpc : s.pc.toNat = a) (h : a + 1 ≤ Config.addrMax) :
    fetch s = .ok (Word.ofBytes (Memory.read s.mem a) (Memory.read s.mem (a + 1))) := by
  subst hpc
  exact fetch_in h

/-- Settles O52: RESET puts PC at 0x200, where LOAD puts the program. -/
theorem firstFetchAfterLoad : Obligations.FirstFetchAfterLoad := by
  intro font s hi lo rest hlen
  have hfits : (hi :: lo :: rest).length ≤ Config.progMax := Nat.add_le_add_right hlen 2
  have hhi : Memory.read (Memory.writeBytes (s.resetWith font).mem 0x200 (hi :: lo :: rest)) 0x200 = hi :=
    Memory.read_writeBytes_in (k := 0) _ _ (Nat.zero_lt_succ _)
  have hlo : Memory.read (Memory.writeBytes (s.resetWith font).mem 0x200 (hi :: lo :: rest)) (0x200 + 1) = lo :=
    Memory.read_writeBytes_in (k := 1) _ _ (Nat.succ_lt_succ (Nat.zero_lt_succ _))
  refine ⟨(s.resetWith font).load (hi :: lo :: rest), rfl, ?_⟩
  rw [State.load_fits _ hfits]
  refine ⟨rfl, rfl, (fetch_at (a := 0x200) rfl (by decide)).trans ?_⟩
  simp only [Config.progBase, hhi, hlo, Word.ofBytes]

/-! ### TICK and the key operations -/

/-- Counting down is subtraction that stops at zero. -/
theorem countDown_toNat (b : Byte) : (countDown b).toNat = b.toNat - 1 := by
  rw [countDown]
  split
  next h => exact BitVec.toNat_sub_of_le (BitVec.le_def.mpr h)
  next h => omega

theorem sameBut_tick (s : State) : SameBut [.delayTimer, .soundTimer] s s.tick := by
  intro p hp
  cases p <;> simp_all [Part.same, State.reg]

/-- Settles O53: each timer counts down on its own, whatever the gates are. -/
theorem tickCountsTimersDown : Obligations.TickCountsTimersDown := fun font s =>
  ⟨_, Operation.perform_tick font s, countDown_toNat s.dt, countDown_toNat s.st, sameBut_tick s⟩

theorem State.setKey_key_getElem (s : State) (k j : Key) (b : Bool) :
    (s.setKey k b).key[j.val] = if j = k then b else s.key[j.val] := by
  simp only [State.setKey_key, Vector.getElem_set, Fin.ext_iff, eq_comm]

theorem sameBut_setKey (s : State) (k : Key) (b : Bool) : SameBut [.keys] s (s.setKey k b) := by
  intro p hp
  cases p <;> simp_all [Part.same, State.reg]

theorem sameBut_setLastKey (s : State) (k : Key) : SameBut [.lastKey] s (s.setLastKey k) := by
  intro p hp
  cases p <;> simp_all [Part.same, State.reg]

theorem sameBut_clearLastKey (s : State) : SameBut [.lastKey] s s.clearLastKey := by
  intro p hp
  cases p <;> simp_all [Part.same, State.reg]

/-- Settles O55: each operation writes the element it names. -/
theorem hostKeyOperations : Obligations.HostKeyOperations := fun font s k =>
  ⟨fun b => ⟨_, Operation.perform_setKey font k b s, fun j => s.setKey_key_getElem k j b, sameBut_setKey s k b⟩,
    ⟨_, Operation.perform_setLastKey font k s, rfl, rfl, sameBut_setLastKey s k⟩,
    ⟨_, Operation.perform_clearLastKey font s, rfl, sameBut_clearLastKey s⟩⟩

/-! ### The status word -/

theorem FaultCode.number_le (c : FaultCode) : c.number ≤ 5 := by
  cases c <;> decide

/-- The number of the fault code that STATUS shows. -/
def State.shownCode (s : State) : Nat := if s.faulted = true then s.faultCode.number else 0

theorem State.shownCode_le (s : State) : s.shownCode ≤ 5 := by
  have h := s.faultCode.number_le
  rw [State.shownCode]
  split <;> omega

/-- No field of STATUS runs into the next, so the word is the sum of its fields. -/
theorem State.status_toNat (s : State) :
    s.status.toNat = s.dirty.toNat + s.wait.toNat * 2 + s.faulted.toNat * 4 + s.shownCode * 8 + s.waitX.val * 256 +
      s.lastKeyValid.toNat * 4096 := by
  have h0 := s.dirty.toNat_le
  have h1 := s.wait.toNat_le
  have h2 := s.faulted.toNat_le
  have h3 := s.shownCode_le
  have h4 := s.lastKeyValid.toNat_le
  rw [State.status, ← State.shownCode, BitVec.toNat_ofNat, Nat.mod_eq_of_lt (by omega)]

/-- A bit of a word is the flag whose value it has. -/
theorem getLsbD_eq_of_div_mod {w : Word} {k : Nat} {b : Bool} (h : w.toNat / 2 ^ k % 2 = b.toNat) :
    w.getLsbD k = b := by
  rw [BitVec.getLsbD, Nat.testBit_eq_decide_div_mod_eq, h]
  cases b <;> rfl

/-- Settles O56: STATUS is the sum of its fields, each in its place. -/
theorem statusLayout : Obligations.StatusLayout := by
  refine ⟨⟨rfl, rfl, rfl, rfl, rfl, rfl⟩, fun s => ?_⟩
  have hstatus := s.status_toNat
  have h0 := s.dirty.toNat_le
  have h1 := s.wait.toNat_le
  have h2 := s.faulted.toNat_le
  have h3 := s.shownCode_le
  have h4 := s.lastKeyValid.toNat_le
  rw [← State.shownCode]
  refine ⟨getLsbD_eq_of_div_mod ?_, getLsbD_eq_of_div_mod ?_, getLsbD_eq_of_div_mod ?_, ?_, ?_, ?_,
    getLsbD_eq_of_div_mod ?_, ?_⟩
  all_goals omega

end Sys2Proof.Machine
end
